-- ==== Sys2Proof/Word.lean ====
section
/-! DEFINITION. The value types of the block: bytes, 4-byte words, 8-byte halves and 16-byte blocks
(00_scope.md R9 to R13), with XOR, their one plain operation. -/

namespace Sys2Proof

/-- A byte, bit 7 most significant (R10); also an element of GF(2^8) (R9). -/
abbrev Byte := BitVec 8

/-- A 32-bit host value (R9). -/
abbrev HWord := BitVec 32

/-- A word `[w0, w1, w2, w3]` of four bytes (R12). -/
structure Word where
  w0 : Byte
  w1 : Byte
  w2 : Byte
  w3 : Byte
deriving DecidableEq, Repr, Inhabited

/-- Eight bytes, `hi` holding bytes 0 to 3: NONCE, CTR0 and CTRCUR (R9, 10_state.md R34). -/
structure Half where
  hi : Word
  lo : Word
deriving DecidableEq, Repr, Inhabited

/-- A block of sixteen bytes as the four columns of its State Grid (R10, R11): byte `b[r + 4c]` is
byte `r` of column `c`. -/
structure Block where
  c0 : Word
  c1 : Word
  c2 : Word
  c3 : Word
deriving DecidableEq, Repr, Inhabited

/-- Byte-wise XOR of two words (R13). -/
def Word.xor (x y : Word) : Word :=
  ⟨x.w0 ^^^ y.w0, x.w1 ^^^ y.w1, x.w2 ^^^ y.w2, x.w3 ^^^ y.w3⟩

/-- Byte-wise XOR of two blocks (R13). -/
def Block.xor (x y : Block) : Block :=
  ⟨x.c0.xor y.c0, x.c1.xor y.c1, x.c2.xor y.c2, x.c3.xor y.c3⟩

/-- The word of four zero bytes. -/
def Word.zero : Word := ⟨0, 0, 0, 0⟩

/-- Eight zero bytes. -/
def Half.zero : Half := ⟨Word.zero, Word.zero⟩

/-- The block of sixteen zero bytes. -/
def Block.zero : Block := ⟨Word.zero, Word.zero, Word.zero, Word.zero⟩

end Sys2Proof
end

