-- ==== Sys2Proof/Syntax.lean ====
section
/-! DEFINITION. The commands of the block, one constructor for each row of spec/opcode_table.json
(30_encoding.md R113), with the explicit operands R, A and B of R111. -/

namespace Sys2Proof

/-- A command of the block. -/
inductive Instr where
  /-- NOP (40_control.md R140). -/
  | nop
  /-- CLEAR (R141). -/
  | clear
  /-- XFER (R142). -/
  | xfer
  /-- EXPAND (43_key_schedule.md R184). -/
  | expand
  /-- KSTEP r (R183). -/
  | kstep (r : BitVec 4)
  /-- ARK r (44_round_primitives.md R210). -/
  | ark (r : BitVec 4)
  /-- SUBB (R211). -/
  | subb
  /-- SHROW (R212). -/
  | shrow
  /-- MIXCOL (R213). -/
  | mixcol
  /-- INVSUBB (R214). -/
  | invsubb
  /-- INVSHROW (R215). -/
  | invshrow
  /-- INVMIXCOL (R216). -/
  | invmixcol
  /-- ENCB (45_block_cipher.md R233). -/
  | encb
  /-- DECB (R234). -/
  | decb
  /-- TRACE r (R232). -/
  | trace (r : BitVec 4)
  /-- XTIME a (42_gf_multiplier.md R163). -/
  | xtime (a : Byte)
  /-- GMUL a, b (R164). -/
  | gmul (a b : Byte)
  /-- ECBENC (46_modes.md R254). -/
  | ecbenc
  /-- ECBDEC (R255). -/
  | ecbdec
  /-- CBCENC (R256). -/
  | cbcenc
  /-- CBCENCT (R257). -/
  | cbcenct
  /-- CBCDEC (R258). -/
  | cbcdec
  /-- CTRX (R263). -/
  | ctrx
  /-- XORDEMO (41_xor_demo.md R150). -/
  | xordemo
  /-- ROUTE (47_router.md R299). -/
  | route
  /-- RUN (R301). -/
  | run
deriving DecidableEq, Repr

end Sys2Proof
end

