-- ==== Sys2Proof/WellFormed.lean ====
section
/-! DEFINITION. Which command terms the encoding admits: the ranges of R in 30_encoding.md R112, R113
and R122(c). -/

namespace Sys2Proof

/-- The round index of KSTEP, ARK and TRACE is in the range of R113; every other operand is free. -/
def Instr.wf : Instr → Bool
  | .kstep r => decide (1 ≤ r.toNat ∧ r.toNat ≤ 10)
  | .ark r => decide (r.toNat ≤ 10)
  | .trace r => decide (r.toNat ≤ 9)
  | .nop | .clear | .xfer | .expand | .subb | .shrow | .mixcol | .invsubb | .invshrow | .invmixcol => true
  | .encb | .decb | .xtime _ | .gmul _ _ | .ecbenc | .ecbdec | .cbcenc | .cbcenct | .cbcdec => true
  | .ctrx | .xordemo | .route | .run => true

end Sys2Proof
end

