-- ==== Sys2Proof/Decode.lean ====
section
/-! DEFINITION. The command word of 30_encoding.md R110, its total decoding (R120, R122, R124) and the
encoder of R110. -/

namespace Sys2Proof

/-- Why a command word is not legal (30_encoding.md R120, R122); the command then completes with
IllegalCommand. -/
inductive Reject where
  /-- R120: the opcode is reserved. -/
  | reservedOpcode
  /-- R122(a): RSV ≠ 0. -/
  | reservedField
  /-- R122(b): R ≠ 0 for an opcode that does not use R. -/
  | unusedRound
  /-- R122(c): R is outside its opcode's range. -/
  | roundOutOfRange
  /-- R122(d): A ≠ 0 for an opcode that does not use A. -/
  | unusedA
  /-- R122(d): B ≠ 0 for an opcode that does not use B. -/
  | unusedB
deriving DecidableEq, Repr

/-- OP, bits [7:0]. -/
def fieldOp (w : HWord) : BitVec 8 := w.extractLsb' 0 8
/-- R, bits [11:8]. -/
def fieldR (w : HWord) : BitVec 4 := w.extractLsb' 8 4
/-- RSV, bits [15:12]. -/
def fieldRsv (w : HWord) : BitVec 4 := w.extractLsb' 12 4
/-- A, bits [23:16]. -/
def fieldA (w : HWord) : Byte := w.extractLsb' 16 8
/-- B, bits [31:24]. -/
def fieldB (w : HWord) : Byte := w.extractLsb' 24 8

/-- A command that uses neither R, A nor B (R122(b), (d)). -/
def decodePlain (w : HWord) (i : Instr) : Except Reject Instr :=
  if fieldR w ≠ 0 then .error .unusedRound
  else if fieldA w ≠ 0 then .error .unusedA
  else if fieldB w ≠ 0 then .error .unusedB
  else .ok i

/-- A command that uses R in `lo..hi` and neither A nor B (R122(c), (d)). -/
def decodeRound (w : HWord) (lo hi : Nat) (f : BitVec 4 → Instr) : Except Reject Instr :=
  if (fieldR w).toNat < lo ∨ hi < (fieldR w).toNat then .error .roundOutOfRange
  else if fieldA w ≠ 0 then .error .unusedA
  else if fieldB w ≠ 0 then .error .unusedB
  else .ok (f (fieldR w))

/-- XTIME, which uses A only (R122(b), (d)). -/
def decodeXtime (w : HWord) : Except Reject Instr :=
  if fieldR w ≠ 0 then .error .unusedRound
  else if fieldB w ≠ 0 then .error .unusedB
  else .ok (.xtime (fieldA w))

/-- GMUL, which uses A and B (R122(b)). -/
def decodeGmul (w : HWord) : Except Reject Instr :=
  if fieldR w ≠ 0 then .error .unusedRound
  else .ok (.gmul (fieldA w) (fieldB w))

/-- The opcode map of R113, on a word whose RSV field is 0. -/
def decodeOp (w : HWord) : Nat → Except Reject Instr
  | 0x00 => decodePlain w .nop
  | 0x01 => decodePlain w .clear
  | 0x02 => decodePlain w .xfer
  | 0x10 => decodePlain w .expand
  | 0x11 => decodeRound w 1 10 .kstep
  | 0x20 => decodeRound w 0 10 .ark
  | 0x21 => decodePlain w .subb
  | 0x22 => decodePlain w .shrow
  | 0x23 => decodePlain w .mixcol
  | 0x24 => decodePlain w .invsubb
  | 0x25 => decodePlain w .invshrow
  | 0x26 => decodePlain w .invmixcol
  | 0x28 => decodePlain w .encb
  | 0x29 => decodePlain w .decb
  | 0x2A => decodeRound w 0 9 .trace
  | 0x30 => decodeXtime w
  | 0x31 => decodeGmul w
  | 0x40 => decodePlain w .ecbenc
  | 0x41 => decodePlain w .ecbdec
  | 0x42 => decodePlain w .cbcenc
  | 0x43 => decodePlain w .cbcenct
  | 0x44 => decodePlain w .cbcdec
  | 0x45 => decodePlain w .ctrx
  | 0x50 => decodePlain w .xordemo
  | 0x60 => decodePlain w .route
  | 0x61 => decodePlain w .run
  | _ => .error .reservedOpcode

/-- Decoding of a command word: total, and it rejects by name (R122, R124). -/
def decode (w : HWord) : Except Reject Instr :=
  if fieldRsv w ≠ 0 then .error .reservedField
  else decodeOp w (fieldOp w).toNat

/-- The opcode of a command (R113). -/
def opcode : Instr → BitVec 8
  | .nop => 0x00
  | .clear => 0x01
  | .xfer => 0x02
  | .expand => 0x10
  | .kstep _ => 0x11
  | .ark _ => 0x20
  | .subb => 0x21
  | .shrow => 0x22
  | .mixcol => 0x23
  | .invsubb => 0x24
  | .invshrow => 0x25
  | .invmixcol => 0x26
  | .encb => 0x28
  | .decb => 0x29
  | .trace _ => 0x2A
  | .xtime _ => 0x30
  | .gmul _ _ => 0x31
  | .ecbenc => 0x40
  | .ecbdec => 0x41
  | .cbcenc => 0x42
  | .cbcenct => 0x43
  | .cbcdec => 0x44
  | .ctrx => 0x45
  | .xordemo => 0x50
  | .route => 0x60
  | .run => 0x61

/-- The R field of a command: 0 where unused (R112). -/
def operandR : Instr → BitVec 4
  | .kstep r | .ark r | .trace r => r
  | _ => 0

/-- The A field of a command: 0 where unused (R112). -/
def operandA : Instr → Byte
  | .xtime a | .gmul a _ => a
  | _ => 0

/-- The B field of a command: 0 where unused (R112). -/
def operandB : Instr → Byte
  | .gmul _ b => b
  | _ => 0

/-- `word = (B << 24) | (A << 16) | (RSV << 12) | (R << 8) | OP` with RSV = 0 (R110). -/
def encode (i : Instr) : HWord :=
  operandB i ++ operandA i ++ (0 : BitVec 4) ++ operandR i ++ opcode i

/-- The command the decoder reads from a table row's word: the command word has 32 bits and one word,
and the bits at or above `nbits` are 0. -/
def decodeTableWord (nbits w : Nat) : Option Instr :=
  match decode (BitVec.ofNat 32 (w % 2 ^ nbits)) with
  | .ok i => some i
  | .error _ => none

end Sys2Proof
end

