-- ==== Sys2Proof/Config.lean ====
section
/-! DEFINITION. What an implementation fixes (the parameters of 00_scope.md R8) and the free values
the spec leaves open. -/

namespace Sys2Proof

/-- Pad content inside CBCENCT: the parameter `TRUNC_PAD` (00_scope.md R8, 46_modes.md R257). -/
inductive TruncPad where
  /-- The pad bytes hold their own number. -/
  | pkcs7
  /-- The pad bytes are zero. -/
  | zero
deriving DecidableEq, Repr

/-- The parameters of 00_scope.md R8 but LATENCY, which is the free value `Config.latency`. -/
structure Params where
  /-- MSGBUF_BYTES, the size of MSG_IN in bytes. -/
  msgbufBytes : Nat
  /-- N_NODES, the number of NODE entries. -/
  nNodes : Nat
  /-- N_EDGES, the number of EDGE entries. -/
  nEdges : Nat
  /-- TRUNC_PAD. -/
  truncPad : TruncPad
deriving DecidableEq, Repr

/-- The default values of 00_scope.md R8. -/
def Params.defaults : Params := ⟨4096, 32, 64, .pkcs7⟩

/-- The legal values of 00_scope.md R8. -/
abbrev Params.legal (p : Params) : Prop :=
  p.msgbufBytes % 16 = 0 ∧ 16 ≤ p.msgbufBytes ∧ p.msgbufBytes ≤ 16384 ∧
    1 ≤ p.nNodes ∧ p.nNodes ≤ 255 ∧ 1 ≤ p.nEdges ∧ p.nEdges ≤ 256

/-- FREE VALUE (log 4, 6, 7): the byte the block shows at a host address where the spec promises none.
The first argument is the draw (a counter in State), the second the host byte address. -/
opaque Config.unspecified : Nat → Nat → Byte

/-- FREE VALUE (log 3): LATENCY (70_reset_and_hazards.md R364), in steps of the model, of the command
accepted at a draw. -/
opaque Config.latency : Nat → Nat

end Sys2Proof
end

