-- ==== Sys2Proof/Machine/State.lean ====
section
/-! DEFINITION. Every piece of state of 10_state.md as plain data, the reasons a step can stop, and
the state right after reset (70_reset_and_hazards.md R351). -/

namespace Sys2Proof.Machine

/-- No step of this block ends in a fault: every aligned transaction completes with OKAY, a misaligned
one with BUSERR (60_exceptions.md R329), every accepted command completes (R322), and a command that
fails reports its error in STATUS and ERRCODE (R324, R331). So nobody raises one. -/
inductive Fault where
deriving DecidableEq, Repr

/-- Why a step gives no answer. -/
inductive Refusal where
  /-- Raised only by an arm of `exec` whose instruction has no meaning yet; no arm is one now. Safe:
  nothing can be proved of a state after it. -/
  | notModelled (mnemonic : String)
deriving DecidableEq, Repr

/-- STATUS (10_state.md R39). Bits [31:5] read 0 and are not stored (R38). -/
structure Status where
  /-- Bit 0. -/
  busy : Bool
  /-- Bit 1. -/
  done : Bool
  /-- Bit 2. -/
  err : Bool
  /-- Bit 3, write 1 to clear. -/
  errSticky : Bool
  /-- Bit 4, write 1 to clear. -/
  writeIgnored : Bool
deriving DecidableEq, Repr

/-- The trace registers (10_state.md R46). -/
structure TraceRegs where
  /-- TR_IN. -/
  input : Block
  /-- TR_ARK. -/
  ark : Block
  /-- TR_SB. -/
  sb : Block
  /-- TR_SR. -/
  sr : Block
  /-- TR_LAST. -/
  last : Block
deriving DecidableEq, Repr

/-- The KSD registers: the detail of one key-schedule step (10_state.md R47, 43_key_schedule.md R181). -/
structure KeyDetail where
  /-- KSD_W0..KSD_W3, the source round key. -/
  source : Block
  /-- KSD_ROT. -/
  rot : Word
  /-- KSD_SUB. -/
  sub : Word
  /-- KSD_RCON. -/
  rcon : Word
  /-- KSD_T. -/
  t : Word
  /-- KSD_W4..KSD_W7, the derived round key. -/
  derived : Block
deriving DecidableEq, Repr

/-- The errors a command can raise (60_exceptions.md R323). Code 2, InvalidEncoding, is never raised
(R333) and has no constructor. -/
inductive CmdError where
  | lengthMismatch
  | invalidBlockLength
  | invalidKeyMaterial
  | missingInput
  | illegalCommand
deriving DecidableEq, Repr

/-- The operand registers that `need` checks (60_exceptions.md R327). -/
inductive OpReg where
  | key | state | iv | nonce | ctr0
deriving DecidableEq, Repr

/-- CTRL.CIPHER, less its refused values (10_state.md R37). -/
inductive Cipher where
  | aes | xor
deriving DecidableEq, Repr

/-- CTRL.MODE, less its reserved value (10_state.md R37). -/
inductive Mode where
  | ecb | cbc | ctr
deriving DecidableEq, Repr

/-- NODE.KIND, less its reserved value (10_state.md R52). -/
inductive NodeKind where
  | plaintextSource | keySource | ivSource | counterSource | cipherBlock | combineXor | ciphertextSink
deriving DecidableEq, Repr

/-- The roles a cipher node's inputs play (47_router.md R293). -/
inductive Role where
  | pt | key | chain | ctr
deriving DecidableEq, Repr

/-- What stands at an aligned host address (20_memory.md R84). Word indexes count from the register's
base, `node` and `edge` carry the entry's index, `msgIn` and `msgOut` the buffer's byte offset. -/
inductive Loc where
  | cmd | ctrl | status | errcode | len | outLen | xlen | gfRes | valid0 | valid1
  | routeNode | routeRes0 | routeRes1 | param
  | operand (x : OpReg) (i : Nat)
  | chain (i : Nat)
  | ctrcur (i : Nat)
  | rk (r i : Nat)
  | tr (k i : Nat)
  | ksd (k : Nat)
  | node (n : Nat)
  | edge (j : Nat)
  | msgIn (a : Nat)
  | msgOut (a : Nat)
  | reserved
deriving DecidableEq, Repr

/-- What the outside world does to the block: a host transaction (20_memory.md R81), or one assertion
and release of reset (70_reset_and_hazards.md R350). -/
inductive BusEvent where
  /-- HostRead(a). -/
  | read (a : BitVec 16)
  /-- HostWrite(a, d, strb). -/
  | write (a : BitVec 16) (d : HWord) (strb : BitVec 4)
  /-- The platform asserts reset and releases it. -/
  | reset
deriving DecidableEq, Repr

/-- The response codes of 20_memory.md R81. -/
inductive RespCode where
  | okay | buserr
deriving DecidableEq, Repr

/-- The response of a transaction; a read carries its data (20_memory.md R81). -/
structure BusResp where
  /-- OKAY or BUSERR. -/
  code : RespCode
  /-- The value of a read; none for a write. -/
  data : Option HWord
deriving DecidableEq, Repr

/-- The bytes of MSG_IN and MSG_OUT, keyed by host byte address (20_memory.md R84). An unlisted address
holds no value of its own: reading it gives a free value (log 4). -/
abbrev Memory := List Host.Cell

/-- The canonical form of a memory: addresses strictly rising. An unlisted address holds no value, so no
entry can equal what an unlisted one reads as. -/
abbrev Memory.wf (m : Memory) : Prop := m.Pairwise (fun a b => a.1 < b.1)

/-- The entries of NODE or EDGE that are not zero, by index (10_state.md R52, R53). -/
abbrev Table := List (Nat × HWord)

/-- The canonical form of a table of `n` entries: indexes strictly rising and below `n`, no entry zero. -/
abbrev Table.wf (n : Nat) (t : Table) : Prop :=
  t.Pairwise (fun a b => a.1 < b.1) ∧ ∀ c ∈ t, c.1 < n ∧ c.2 ≠ 0

/-- The state of the block, with what the outside world has issued. -/
structure State where
  /-- The parameters (00_scope.md R8); no step changes them (log 2). -/
  cfg : Params
  /-- CMD: the last accepted command word, also the latched one while busy (10_state.md R51, R56). -/
  cmd : HWord
  /-- CTRL[7:0] (R37). -/
  ctrl : BitVec 8
  /-- STATUS (R39). -/
  status : Status
  /-- ERRCODE[7:0] (R40). -/
  errcode : BitVec 8
  /-- LEN[15:0] (R41). -/
  len : BitVec 16
  /-- OUT_LEN[15:0] (R42). -/
  outLen : BitVec 16
  /-- XLEN[15:0] (R43). -/
  xlen : BitVec 16
  /-- VALID0.KEY_M (R35). -/
  keyM : BitVec 16
  /-- VALID0.STATE_M. -/
  stateM : BitVec 16
  /-- VALID1.IV_M. -/
  ivM : BitVec 16
  /-- VALID1.NONCE_M. -/
  nonceM : BitVec 8
  /-- VALID1.CTR0_M. -/
  ctr0M : BitVec 8
  /-- KEY (R33). -/
  key : Block
  /-- STATE (R33). -/
  state : Block
  /-- IV (R33). -/
  iv : Block
  /-- NONCE (R34). -/
  nonce : Half
  /-- CTR0 (R34). -/
  ctr0 : Half
  /-- CHAIN (R44). -/
  chain : Block
  /-- CTRCUR (R44). -/
  ctrcur : Half
  /-- RK[0..10] (R45). -/
  rk : Vector Block 11
  /-- TR_IN, TR_ARK, TR_SB, TR_SR and TR_LAST (R46). -/
  tr : TraceRegs
  /-- The KSD registers (R47). -/
  ksd : KeyDetail
  /-- GF_RES[7:0] (R48). -/
  gfRes : Byte
  /-- ROUTE_NODE[7:0] (R49). -/
  routeNode : BitVec 8
  /-- ROUTE_RES0 (R49). -/
  routeRes0 : HWord
  /-- ROUTE_RES1[15:0] (R49). -/
  routeRes1 : BitVec 16
  /-- NODE (R52). -/
  nodes : Table
  /-- EDGE (R53). -/
  edges : Table
  /-- MSG_IN and MSG_OUT (R54). -/
  mem : Memory
  /-- The model's own: the events the outside world has issued, the first one next (log 1). -/
  pending : List BusEvent
  /-- The model's own: the response of the last transaction (log 1). -/
  resp : Option BusResp
  /-- The model's own: the steps left before the command in flight completes (log 3). -/
  wait : Nat
  /-- The model's own: how many free values have been drawn (log 4). -/
  draws : Nat
  /-- The model's own: the draw that names the bytes of MSG_IN nothing has written (log 4). -/
  inGen : Nat
  /-- The model's own: the draw that names the unlisted bytes of MSG_OUT (log 4). -/
  outGen : Nat
deriving DecidableEq, Repr

/-- The machine right after power-on reset (70_reset_and_hazards.md R351). Every register the spec leaves
UNSPECIFIED holds zero, DESIGN CHOICE (log 5, unsafe); the fields of the model's own are as in log 1, 3
and 4. -/
def State.reset : State where
  cfg := Params.defaults
  cmd := 0
  ctrl := 0x20
  status := ⟨false, false, false, false, false⟩
  errcode := 0
  len := 0
  outLen := 0
  xlen := 0
  keyM := 0
  stateM := 0
  ivM := 0
  nonceM := 0
  ctr0M := 0
  key := Block.zero
  state := Block.zero
  iv := Block.zero
  nonce := Half.zero
  ctr0 := Half.zero
  chain := Block.zero
  ctrcur := Half.zero
  rk := Vector.replicate 11 Block.zero
  tr := ⟨Block.zero, Block.zero, Block.zero, Block.zero, Block.zero⟩
  ksd := ⟨Block.zero, Word.zero, Word.zero, Word.zero, Word.zero, Block.zero⟩
  gfRes := 0
  routeNode := 0
  routeRes0 := 0
  routeRes1 := 0
  nodes := []
  edges := []
  mem := []
  pending := []
  resp := none
  wait := 0
  draws := 1
  inGen := 0
  outGen := 0

end Sys2Proof.Machine
end

