-- ==== Sys2Proof/Machine/Ops.lean ====
section
/-! DEFINITION. The named operations over memory and registers: byte order (20_memory.md R82), the
sparse lists behind the buffers and tables, the two buffers (R87), and the completion of a command,
with and without an error (60_exceptions.md R322, R324, R325). -/

namespace Sys2Proof.Machine

/-! ### Byte order (20_memory.md R82, 00_scope.md R12) -/

/-- The host value of a word: `w0` in bits [31:24] (00_scope.md R12). -/
def wordToBits (w : Word) : HWord := w.w0 ++ w.w1 ++ w.w2 ++ w.w3

/-- The four byte lanes of a host value, most significant first (20_memory.md R82). -/
def wordOfBits (v : HWord) : Word :=
  ⟨v.extractLsb' 24 8, v.extractLsb' 16 8, v.extractLsb' 8 8, v.extractLsb' 0 8⟩

/-- The unsigned 64-bit value of eight bytes, byte 0 most significant (10_state.md R34). -/
def halfToBits (h : Half) : BitVec 64 := wordToBits h.hi ++ wordToBits h.lo

/-- The eight bytes of a 64-bit value, byte 0 most significant (10_state.md R34). -/
def halfOfBits (v : BitVec 64) : Half :=
  ⟨wordOfBits (v.extractLsb' 32 32), wordOfBits (v.extractLsb' 0 32)⟩

/-- A block as 128 bits, byte 0 most significant: the bit string of 41_xor_demo.md R151. -/
def blockToBits (x : Block) : BitVec 128 :=
  wordToBits x.c0 ++ wordToBits x.c1 ++ wordToBits x.c2 ++ wordToBits x.c3

/-- The block of a 128-bit string, first bit most significant (41_xor_demo.md R151). -/
def blockOfBits (v : BitVec 128) : Block :=
  ⟨wordOfBits (v.extractLsb' 96 32), wordOfBits (v.extractLsb' 64 32),
    wordOfBits (v.extractLsb' 32 32), wordOfBits (v.extractLsb' 0 32)⟩

/-- Byte `i` of a word. -/
def wordByte (w : Word) : Nat → Byte
  | 0 => w.w0
  | 1 => w.w1
  | 2 => w.w2
  | _ => w.w3

/-- Word `i` of a block register (20_memory.md R82): column `i` (00_scope.md R12). -/
def blockWord (x : Block) : Nat → Word
  | 0 => x.c0
  | 1 => x.c1
  | 2 => x.c2
  | _ => x.c3

/-- A block with its word `i` replaced. -/
def blockSetWord (x : Block) (w : Word) : Nat → Block
  | 0 => { x with c0 := w }
  | 1 => { x with c1 := w }
  | 2 => { x with c2 := w }
  | _ => { x with c3 := w }

/-- Word `i` of an 8-byte register (20_memory.md R82). -/
def halfWord (h : Half) : Nat → Word
  | 0 => h.hi
  | _ => h.lo

/-- An 8-byte register with its word `i` replaced. -/
def halfSetWord (h : Half) (w : Word) : Nat → Half
  | 0 => { h with hi := w }
  | _ => { h with lo := w }

/-- Byte `b[k]` of a block (00_scope.md R10, R11). -/
def blockByte (x : Block) (k : Nat) : Byte := wordByte (blockWord x (k / 4)) (k % 4)

/-- The four bytes of a word, in order. -/
def wordBytes (w : Word) : List Byte := [w.w0, w.w1, w.w2, w.w3]

/-- The sixteen bytes of a block, `b[0]` first (00_scope.md R10). -/
def blockBytes (x : Block) : List Byte :=
  wordBytes x.c0 ++ wordBytes x.c1 ++ wordBytes x.c2 ++ wordBytes x.c3

/-- The block of the first sixteen bytes of a list. -/
def blockOfBytes (l : List Byte) : Block :=
  ⟨⟨l.getD 0 0, l.getD 1 0, l.getD 2 0, l.getD 3 0⟩,
    ⟨l.getD 4 0, l.getD 5 0, l.getD 6 0, l.getD 7 0⟩,
    ⟨l.getD 8 0, l.getD 9 0, l.getD 10 0, l.getD 11 0⟩,
    ⟨l.getD 12 0, l.getD 13 0, l.getD 14 0, l.getD 15 0⟩⟩

/-- `new` on the byte lanes whose strobe is set, `old` on the others: strobe bit `j` enables the byte
at address `a + j` (20_memory.md R81, R83). -/
def laneMerge (old new : Word) (strb : BitVec 4) : Word :=
  ⟨if strb.getLsbD 0 then new.w0 else old.w0, if strb.getLsbD 1 then new.w1 else old.w1,
    if strb.getLsbD 2 then new.w2 else old.w2, if strb.getLsbD 3 then new.w3 else old.w3⟩

/-- `laneMerge` on host values. -/
def laneMergeBits (old new : HWord) (strb : BitVec 4) : HWord :=
  wordToBits (laneMerge (wordOfBits old) (wordOfBits new) strb)

/-! ### Sparse lists -/

/-- The entry at `a`, if one is listed. -/
def cellsGet {α : Type} : List (Nat × α) → Nat → Option α
  | [], _ => none
  | (k, v) :: rest, a => if k = a then some v else cellsGet rest a

/-- The list with the entry at `a` set to `v`, in rising order. -/
def cellsPut {α : Type} : List (Nat × α) → Nat → α → List (Nat × α)
  | [], a, v => [(a, v)]
  | (k, w) :: rest, a, v =>
    if a < k then (a, v) :: (k, w) :: rest
    else if a = k then (a, v) :: rest
    else (k, w) :: cellsPut rest a v

/-- The list without an entry at `a`. -/
def cellsErase {α : Type} (l : List (Nat × α)) (a : Nat) : List (Nat × α) :=
  l.filter (fun c => decide (c.1 ≠ a))

/-- Entry `i` of NODE or EDGE; an unlisted entry is 0 (10_state.md R52, R53). -/
def tableGet (t : Table) (i : Nat) : HWord := (cellsGet t i).getD 0

/-- NODE or EDGE with entry `i` set; an entry of 0 is not listed. -/
def tablePut (t : Table) (i : Nat) (v : HWord) : Table :=
  if v = 0 then cellsErase t i else cellsPut t i v

/-! ### The buffers (10_state.md R54, 20_memory.md R84, R87) -/

/-- Host address of MSG_IN byte 0 (20_memory.md R84). -/
abbrev msgInBase : Nat := 0x4000

/-- Host address of MSG_OUT byte 0 (20_memory.md R84). -/
abbrev msgOutBase : Nat := 0x8000

/-- The buffer byte at host address `a`: the listed one, or the free value of draw `gen` (log 4). -/
def memByte (m : Memory) (gen a : Nat) : Byte := (cellsGet m a).getD (Config.unspecified gen a)

/-- Byte `a` of MSG_IN. -/
def inByte (s : State) (a : Nat) : Byte := memByte s.mem s.inGen (msgInBase + a)

/-- Byte `a` of MSG_OUT. -/
def outByte (s : State) (a : Nat) : Byte := memByte s.mem s.outGen (msgOutBase + a)

/-- MemRead(MSG_IN, 0, n) (20_memory.md R87). -/
def readIn (s : State) (n : Nat) : List Byte := (List.range n).map (inByte s)

/-- MemRead(MSG_OUT, 0, n) (20_memory.md R87). -/
def readOut (s : State) (n : Nat) : List Byte := (List.range n).map (outByte s)

/-- The memory with the bytes `l` stored from host address `a` on. -/
def memWrite (m : Memory) (a : Nat) : List Byte → Memory
  | [] => m
  | b :: l => memWrite (cellsPut m a b) (a + 1) l

/-- The memory with no byte of MSG_OUT listed. -/
def dropOut (m : Memory) : Memory := m.filter (fun c => decide (c.1 < msgOutBase))

/-- MemWrite(MSG_IN, 0, |l|, l). -/
def writeIn (s : State) (l : List Byte) : State := { s with mem := memWrite s.mem msgInBase l }

/-- The result of a mode command: MSG_OUT holds `l` from byte 0 on, OUT_LEN its length, and every byte of
MSG_OUT at or beyond OUT_LEN is UNSPECIFIED (46_modes.md, introduction), a fresh free value (log 4). -/
def writeOutput (s : State) (l : List Byte) : State :=
  { s with
    mem := memWrite (dropOut s.mem) msgOutBase l
    outLen := BitVec.ofNat 16 l.length
    outGen := s.draws
    draws := s.draws + 1 }

/-! ### Completion and errors (60_exceptions.md R322 to R325) -/

/-- The code of an error (60_exceptions.md R323). -/
def errCode : CmdError → BitVec 8
  | .lengthMismatch => 1
  | .invalidBlockLength => 3
  | .invalidKeyMaterial => 4
  | .missingInput => 5
  | .illegalCommand => 6

/-- Completion without error (60_exceptions.md R322; log 11). -/
def completeOk (s : State) : State :=
  { s with status := { s.status with busy := false, done := true } }

/-- Completion with error `e`, the block's one way of taking an exception: it writes STATUS and ERRCODE and
nothing else (60_exceptions.md R322, R324, R325). -/
def raiseError (s : State) (e : CmdError) : State :=
  { s with
    errcode := errCode e
    status := { s.status with busy := false, done := true, err := true, errSticky := true } }

/-- Completion of a command whose pseudocode gave `r` on the state `s`: its results, or the error and `s`
unchanged (60_exceptions.md R322, R325). -/
def finish (s : State) : Except CmdError State → Host.Outcome State Fault Refusal
  | .ok t => .next (completeOk t)
  | .error e => .next (raiseError s e)

/-- The first check that fails, else the result (60_exceptions.md R324, R326). -/
def guarded {α : Type} : List (Option CmdError) → α → Except CmdError α
  | [], t => .ok t
  | none :: rest, t => guarded rest t
  | some e :: _, _ => .error e

/-- The check that raises `e` when `bad` holds. -/
def failIf (bad : Prop) [Decidable bad] (e : CmdError) : Option CmdError := if bad then some e else none

end Sys2Proof.Machine
end

