-- ==== Sys2Proof/Machine/Flags.lean ====
section
/-! DEFINITION. STATUS as the host reads and writes it (10_state.md R39) and the acceptance of a command
(60_exceptions.md R321). The block has no arithmetic flags (10_state.md R55). -/

namespace Sys2Proof.Machine

/-- STATUS as a host word (10_state.md R39). -/
def statusToBits (st : Status) : HWord :=
  (0 : BitVec 27) ++ BitVec.ofBool st.writeIgnored ++ BitVec.ofBool st.errSticky ++
    BitVec.ofBool st.err ++ BitVec.ofBool st.done ++ BitVec.ofBool st.busy

/-- A host write to STATUS: a 1 on an enabled lane clears bits 3 and 4; nothing else is writable
(10_state.md R39, 20_memory.md R83; log 9). -/
def statusWrite (st : Status) (d : HWord) (strb : BitVec 4) : Status :=
  { st with
    errSticky := st.errSticky && !(strb.getLsbD 3 && d.getLsbD 3)
    writeIgnored := st.writeIgnored && !(strb.getLsbD 3 && d.getLsbD 4) }

/-- Acceptance of the command word `w`: the one atomic step of 60_exceptions.md R321, and the model's draw
of its latency (log 3). -/
def accept (s : State) (w : HWord) : State :=
  { s with
    cmd := w
    status := { s.status with busy := true, done := false, err := false }
    errcode := 0
    wait := Config.latency s.draws
    draws := s.draws + 1 }

end Sys2Proof.Machine
end

