-- ==== Sys2Proof/Machine/Operands.lean ====
section
/-! DEFINITION. The implicit operands of the commands (30_encoding.md R111): the operand check `need`
(60_exceptions.md R327), the fields of CTRL and XLEN (10_state.md R37, R43), and the message in MSG_IN
(46_modes.md R250). -/

namespace Sys2Proof.Machine

/-- A validity mask as `need` sees it: no byte written, all bytes written, or some (60_exceptions.md R327). -/
def needMask {n : Nat} (m : BitVec n) (partialError : CmdError) : Option CmdError :=
  if m = 0 then some .missingInput
  else if m = BitVec.allOnes n then none
  else some partialError

/-- `need(X)` (60_exceptions.md R327). -/
def need (s : State) : OpReg → Option CmdError
  | .key => needMask s.keyM .invalidBlockLength
  | .state => needMask s.stateM .invalidBlockLength
  | .iv => needMask s.ivM .invalidKeyMaterial
  | .nonce => needMask s.nonceM .invalidKeyMaterial
  | .ctr0 => needMask s.ctr0M .invalidKeyMaterial

/-- CTRL.MODE; none for the reserved value 3 (10_state.md R37, 30_encoding.md R121). -/
def ctrlMode (s : State) : Option Mode :=
  match (s.ctrl.extractLsb' 0 2).toNat with
  | 0 => some .ecb
  | 1 => some .cbc
  | 2 => some .ctr
  | _ => none

/-- CTRL.DIR: true for decrypt. -/
def ctrlDir (s : State) : Bool := s.ctrl.getLsbD 2

/-- CTRL.CIPHER; none for the refused values 2 and 3 (10_state.md R37, 30_encoding.md R121). -/
def ctrlCipher (s : State) : Option Cipher :=
  match (s.ctrl.extractLsb' 3 2).toNat with
  | 0 => some .aes
  | 1 => some .xor
  | _ => none

/-- CTRL.PAD. -/
def ctrlPad (s : State) : Bool := s.ctrl.getLsbD 5

/-- CTRL.TRUNC. -/
def ctrlTrunc (s : State) : Bool := s.ctrl.getLsbD 6

/-- CTRL.CTR_LE. -/
def ctrlCtrLe (s : State) : Bool := s.ctrl.getLsbD 7

/-- XLEN.PT_BITS (10_state.md R43). -/
def ptBits (s : State) : Nat := (s.xlen.extractLsb' 0 8).toNat

/-- XLEN.KEY_BITS (10_state.md R43). -/
def keyBits (s : State) : Nat := (s.xlen.extractLsb' 8 8).toNat

/-- The message of the mode commands: LEN bytes of MSG_IN (46_modes.md R250). -/
def message (s : State) : List Byte := readIn s s.len.toNat

/-- The length check of the mode commands (46_modes.md R250). -/
def needLen (s : State) : Option CmdError :=
  failIf (s.cfg.msgbufBytes < s.len.toNat) .invalidBlockLength

/-- The first `m` blocks of a byte sequence: `X_i` is bytes `16i .. 16i+15` (46_modes.md). -/
def blocksOf : Nat → List Byte → List Block
  | 0, _ => []
  | m + 1, l => blockOfBytes l :: blocksOf m (l.drop 16)

/-- The bytes of a sequence of blocks. -/
def bytesOf (bs : List Block) : List Byte := bs.flatMap blockBytes

end Sys2Proof.Machine
end

