-- ==== Sys2Proof/Machine/Bus.lean ====
section
/-! DEFINITION. The host bus: the address map, reads and writes, and the reset input (20_memory.md,
70_reset_and_hazards.md). -/

namespace Sys2Proof.Machine

/-! ### The address map (20_memory.md R84) -/

/-- The control and status registers, by word index from 0x0000. -/
def controlLoc : Nat → Loc
  | 0 => .cmd
  | 1 => .ctrl
  | 2 => .status
  | 3 => .errcode
  | 4 => .len
  | 5 => .outLen
  | 6 => .xlen
  | 7 => .gfRes
  | 8 => .valid0
  | 9 => .valid1
  | 10 => .routeNode
  | 11 => .routeRes0
  | 12 => .routeRes1
  | 13 => .param
  | _ => .reserved

/-- The operand and chaining registers, by word index from 0x0100. -/
def operandLoc (k : Nat) : Loc :=
  if k < 4 then .operand .key k
  else if k < 8 then .operand .state (k - 4)
  else if k < 12 then .operand .iv (k - 8)
  else if k < 14 then .operand .nonce (k - 12)
  else if k < 16 then .operand .ctr0 (k - 14)
  else if k < 20 then .chain (k - 16)
  else if k < 22 then .ctrcur (k - 20)
  else .reserved

/-- What stands at the aligned address `a` (20_memory.md R84); everything not in the map is reserved. -/
def locOf (p : Params) (a : Nat) : Loc :=
  if a < 0x0100 then controlLoc (a / 4)
  else if a < 0x0200 then operandLoc ((a - 0x0100) / 4)
  else if a < 0x0300 then
    if a < 0x02B0 then .rk ((a - 0x0200) / 16) ((a - 0x0200) / 4 % 4) else .reserved
  else if a < 0x0400 then
    if a < 0x0350 then .tr ((a - 0x0300) / 16) ((a - 0x0300) / 4 % 4) else .reserved
  else if a < 0x0800 then
    if a < 0x0430 then .ksd ((a - 0x0400) / 4) else .reserved
  else if a < 0x0C00 then
    if (a - 0x0800) / 4 < p.nNodes then .node ((a - 0x0800) / 4) else .reserved
  else if a < 0x4000 then
    if (a - 0x0C00) / 4 < p.nEdges then .edge ((a - 0x0C00) / 4) else .reserved
  else if a < 0x8000 then
    if a - 0x4000 < p.msgbufBytes then .msgIn (a - 0x4000) else .reserved
  else
    if a - 0x8000 < p.msgbufBytes + 16 then .msgOut (a - 0x8000) else .reserved

/-- The locations a read of which is UNSPECIFIED while BUSY = 1 (20_memory.md R88). -/
def isResult : Loc → Bool
  | .outLen | .gfRes | .errcode | .valid0 | .valid1 | .routeRes0 | .routeRes1 => true
  | .chain _ | .ctrcur _ | .rk _ _ | .tr _ _ | .ksd _ | .msgOut _ => true
  | .cmd | .ctrl | .status | .len | .xlen | .routeNode | .param => false
  | .operand _ _ | .node _ | .edge _ | .msgIn _ | .reserved => false

/-! ### Reads -/

/-- PARAM (10_state.md R50). -/
def paramBits (p : Params) : HWord :=
  BitVec.ofNat 16 (p.msgbufBytes / 16) ++ BitVec.ofNat 8 (p.nEdges - 1) ++ BitVec.ofNat 8 p.nNodes

/-- Word `i` of an operand register. -/
def operandWord (s : State) (x : OpReg) (i : Nat) : Word :=
  match x with
  | .key => blockWord s.key i
  | .state => blockWord s.state i
  | .iv => blockWord s.iv i
  | .nonce => halfWord s.nonce i
  | .ctr0 => halfWord s.ctr0 i

/-- The trace registers in address order (20_memory.md R84). -/
def traceBlock (t : TraceRegs) : Nat → Block
  | 0 => t.input
  | 1 => t.ark
  | 2 => t.sb
  | 3 => t.sr
  | _ => t.last

/-- The KSD registers in address order (20_memory.md R84). -/
def detailWord (d : KeyDetail) (k : Nat) : Word :=
  match k with
  | 4 => d.rot
  | 5 => d.sub
  | 6 => d.rcon
  | 7 => d.t
  | k => if k < 4 then blockWord d.source k else blockWord d.derived (k - 8)

/-- The word a read of a location returns; reserved bits and reserved offsets read 0 (10_state.md R38,
20_memory.md R86). -/
def readLoc (s : State) : Loc → HWord
  | .cmd => s.cmd
  | .ctrl => s.ctrl.zeroExtend 32
  | .status => statusToBits s.status
  | .errcode => s.errcode.zeroExtend 32
  | .len => s.len.zeroExtend 32
  | .outLen => s.outLen.zeroExtend 32
  | .xlen => s.xlen.zeroExtend 32
  | .gfRes => s.gfRes.zeroExtend 32
  | .valid0 => s.stateM ++ s.keyM
  | .valid1 => s.ctr0M ++ s.nonceM ++ s.ivM
  | .routeNode => s.routeNode.zeroExtend 32
  | .routeRes0 => s.routeRes0
  | .routeRes1 => s.routeRes1.zeroExtend 32
  | .param => paramBits s.cfg
  | .operand x i => wordToBits (operandWord s x i)
  | .chain i => wordToBits (blockWord s.chain i)
  | .ctrcur i => wordToBits (halfWord s.ctrcur i)
  | .rk r i => wordToBits (blockWord (s.rk.toList.getD r Block.zero) i)
  | .tr k i => wordToBits (blockWord (traceBlock s.tr k) i)
  | .ksd k => wordToBits (detailWord s.ksd k)
  | .node n => tableGet s.nodes n
  | .edge j => tableGet s.edges j
  | .msgIn a => wordToBits ⟨inByte s a, inByte s (a + 1), inByte s (a + 2), inByte s (a + 3)⟩
  | .msgOut a => wordToBits ⟨outByte s a, outByte s (a + 1), outByte s (a + 2), outByte s (a + 3)⟩
  | .reserved => 0

/-- The UNSPECIFIED word at host address `a`: the free value of draw `d` (log 4). -/
def unspecWord (d a : Nat) : Word :=
  ⟨Config.unspecified d a, Config.unspecified d (a + 1), Config.unspecified d (a + 2),
    Config.unspecified d (a + 3)⟩

/-- HostRead(a) (20_memory.md R81, R85, R86, R88, R90). A result read while busy is a free value drawn at
that read (log 7). -/
def hostRead (s : State) (a : BitVec 16) : State :=
  if a.toNat % 4 ≠ 0 then { s with resp := some ⟨.buserr, some 0⟩ }
  else if s.status.busy && isResult (locOf s.cfg a.toNat) then
    { s with
      resp := some ⟨.okay, some (wordToBits (unspecWord s.draws a.toNat))⟩
      draws := s.draws + 1 }
  else { s with resp := some ⟨.okay, some (readLoc s (locOf s.cfg a.toNat))⟩ }

/-! ### Writes -/

/-- The mask bits a write of word `i` sets: strobe bit `j` sets the bit of byte `4i + j` (10_state.md R35,
R36). -/
def maskSet {n : Nat} (m : BitVec n) (strb : BitVec 4) (i : Nat) : BitVec n :=
  m ||| (strb.zeroExtend n <<< (4 * i))

/-- A write of word `i` of an operand register: the enabled bytes and their mask bits (10_state.md R36). -/
def writeOperand (s : State) (x : OpReg) (i : Nat) (d : HWord) (strb : BitVec 4) : State :=
  let w := laneMerge (operandWord s x i) (wordOfBits d) strb
  match x with
  | .key => { s with key := blockSetWord s.key w i, keyM := maskSet s.keyM strb i }
  | .state => { s with state := blockSetWord s.state w i, stateM := maskSet s.stateM strb i }
  | .iv => { s with iv := blockSetWord s.iv w i, ivM := maskSet s.ivM strb i }
  | .nonce => { s with nonce := halfSetWord s.nonce w i, nonceM := maskSet s.nonceM strb i }
  | .ctr0 => { s with ctr0 := halfSetWord s.ctr0 w i, ctr0M := maskSet s.ctr0M strb i }

/-- The memory with byte `b` at `a` if the lane is enabled. -/
def putLane (m : Memory) (a : Nat) (b : Byte) (on : Bool) : Memory := if on then cellsPut m a b else m

/-- A write of the enabled bytes of a buffer word (20_memory.md R83). -/
def writeBufferWord (m : Memory) (a : Nat) (w : Word) (strb : BitVec 4) : Memory :=
  putLane (putLane (putLane (putLane m a w.w0 (strb.getLsbD 0)) (a + 1) w.w1 (strb.getLsbD 1))
    (a + 2) w.w2 (strb.getLsbD 2)) (a + 3) w.w3 (strb.getLsbD 3)

/-- A write to a location while BUSY = 0 (20_memory.md R83, R84, R86, R90; 10_state.md R38): read-only and
reserved locations ignore it. -/
def writeLoc (s : State) (d : HWord) (strb : BitVec 4) : Loc → State
  | .cmd => if strb = 0xF then accept s d else s
  | .ctrl => { s with ctrl := (laneMergeBits (s.ctrl.zeroExtend 32) d strb).extractLsb' 0 8 }
  | .status => { s with status := statusWrite s.status d strb }
  | .len => { s with len := (laneMergeBits (s.len.zeroExtend 32) d strb).extractLsb' 0 16 }
  | .xlen => { s with xlen := (laneMergeBits (s.xlen.zeroExtend 32) d strb).extractLsb' 0 16 }
  | .routeNode =>
    { s with routeNode := (laneMergeBits (s.routeNode.zeroExtend 32) d strb).extractLsb' 0 8 }
  | .operand x i => writeOperand s x i d strb
  | .node n => { s with nodes := tablePut s.nodes n (laneMergeBits (tableGet s.nodes n) d strb) }
  | .edge j => { s with edges := tablePut s.edges j (laneMergeBits (tableGet s.edges j) d strb) }
  | .msgIn a => { s with mem := writeBufferWord s.mem (msgInBase + a) (wordOfBits d) strb }
  | .errcode | .outLen | .gfRes | .valid0 | .valid1 | .routeRes0 | .routeRes1 | .param => s
  | .chain _ | .ctrcur _ | .rk _ _ | .tr _ _ | .ksd _ | .msgOut _ | .reserved => s

/-- HostWrite(a, d, strb) (20_memory.md R81, R83, R85, R86; 60_exceptions.md R321;
70_reset_and_hazards.md R360; log 9). -/
def hostWrite (s : State) (a : BitVec 16) (d : HWord) (strb : BitVec 4) : State :=
  if a.toNat % 4 ≠ 0 then { s with resp := some ⟨.buserr, none⟩ }
  else if s.status.busy then
    { s with resp := some ⟨.okay, none⟩, status := { s.status with writeIgnored := true } }
  else { writeLoc s d strb (locOf s.cfg a.toNat) with resp := some ⟨.okay, none⟩ }

/-! ### Reset (70_reset_and_hazards.md R350 to R352) -/

/-- The UNSPECIFIED block register at host address `a`, draw `d` (log 6). -/
def unspecBlock (d a : Nat) : Block :=
  ⟨unspecWord d a, unspecWord d (a + 4), unspecWord d (a + 8), unspecWord d (a + 12)⟩

/-- The UNSPECIFIED 8-byte register at host address `a`, draw `d` (log 6). -/
def unspecHalf (d a : Nat) : Half := ⟨unspecWord d a, unspecWord d (a + 4)⟩

/-- Reset: every piece of state with a defined reset value takes it, every other one is UNSPECIFIED, a free
value, and a command in flight is abandoned (70_reset_and_hazards.md R350, R351, R352; log 6). The parameters
and what the outside world has issued stay. -/
def resetState (s : State) : State :=
  let d := s.draws
  { State.reset with
    cfg := s.cfg
    pending := s.pending
    key := unspecBlock d 0x0100
    state := unspecBlock d 0x0110
    iv := unspecBlock d 0x0120
    nonce := unspecHalf d 0x0130
    ctr0 := unspecHalf d 0x0138
    chain := unspecBlock d 0x0140
    ctrcur := unspecHalf d 0x0150
    rk := #v[unspecBlock d 0x0200, unspecBlock d 0x0210, unspecBlock d 0x0220, unspecBlock d 0x0230,
      unspecBlock d 0x0240, unspecBlock d 0x0250, unspecBlock d 0x0260, unspecBlock d 0x0270,
      unspecBlock d 0x0280, unspecBlock d 0x0290, unspecBlock d 0x02A0]
    tr := ⟨unspecBlock d 0x0300, unspecBlock d 0x0310, unspecBlock d 0x0320, unspecBlock d 0x0330,
      unspecBlock d 0x0340⟩
    ksd := ⟨unspecBlock d 0x0400, unspecWord d 0x0410, unspecWord d 0x0414, unspecWord d 0x0418,
      unspecWord d 0x041C, unspecBlock d 0x0420⟩
    gfRes := Config.unspecified d 0x001F
    routeRes0 := wordToBits (unspecWord d 0x002C)
    routeRes1 := Config.unspecified d 0x0032 ++ Config.unspecified d 0x0033
    draws := d + 1
    inGen := d
    outGen := d }

/-! ### The outside world's next event -/

/-- What one event does to the block. -/
def busEvent (s : State) : BusEvent → State
  | .read a => hostRead s a
  | .write a d strb => hostWrite s a d strb
  | .reset => resetState s

/-- The first pending event happens; with none pending nothing changes (60_exceptions.md R339; log 1). -/
def busStep (s : State) : State :=
  match s.pending with
  | [] => s
  | e :: rest => busEvent { s with pending := rest } e

/-- The state right after the acceptance of the word `w`, with its completion due next: a host write of `w`
to CMD whose latency has run out (60_exceptions.md R321; log 8). -/
def placeCommand (s : State) (w : HWord) : State := { accept s w with wait := 0, draws := s.draws }

end Sys2Proof.Machine
end

