-- ==== Sys2Proof/Machine/Gf.lean ====
section
/-! DEFINITION. The GF(2^8) byte multiplier: XTIME and GMUL (42_gf_multiplier.md). -/

namespace Sys2Proof.Machine

/-- Multiplication by 0x02, reduced by 0x11B (42_gf_multiplier.md R160). -/
def xtime (x : Byte) : Byte := (x <<< 1) ^^^ (if x.getLsbD 7 then 0x1B else 0x00)

/-- The shift-and-add loop of 42_gf_multiplier.md R161 with `n` rounds left and partial product `p`. -/
def gmulLoop : Nat → Byte → Byte → Byte → Byte
  | 0, p, _, _ => p
  | n + 1, p, a, b => gmulLoop n (if b.getLsbD 0 then p ^^^ a else p) (xtime a) (b >>> 1)

/-- The product in GF(2^8) (42_gf_multiplier.md R161). -/
def gmul (a b : Byte) : Byte := gmulLoop 8 0 a b

/-- XTIME (42_gf_multiplier.md R163). -/
def execXtime (a : Byte) (s : State) : Host.Outcome State Fault Refusal :=
  finish s (.ok { s with gfRes := xtime a })

/-- GMUL (42_gf_multiplier.md R164). -/
def execGmul (a b : Byte) (s : State) : Host.Outcome State Fault Refusal :=
  finish s (.ok { s with gfRes := gmul a b })

end Sys2Proof.Machine
end

