-- ==== Sys2Proof/Machine/Sbox.lean ====
section
/-! DEFINITION. The S-box and its inverse, row by row as 44_round_primitives.md R201 and R205 print them. -/

namespace Sys2Proof.Machine

/-- Row `x[7:4]` of the S-box table, column 0 in the most significant byte (44_round_primitives.md R201). -/
def sboxRow : Nat → BitVec 128
  | 0x0 => 0x637C777BF26B6FC53001672BFED7AB76
  | 0x1 => 0xCA82C97DFA5947F0ADD4A2AF9CA472C0
  | 0x2 => 0xB7FD9326363FF7CC34A5E5F171D83115
  | 0x3 => 0x04C723C31896059A071280E2EB27B275
  | 0x4 => 0x09832C1A1B6E5AA0523BD6B329E32F84
  | 0x5 => 0x53D100ED20FCB15B6ACBBE394A4C58CF
  | 0x6 => 0xD0EFAAFB434D338545F9027F503C9FA8
  | 0x7 => 0x51A3408F929D38F5BCB6DA2110FFF3D2
  | 0x8 => 0xCD0C13EC5F974417C4A77E3D645D1973
  | 0x9 => 0x60814FDC222A908846EEB814DE5E0BDB
  | 0xA => 0xE0323A0A4906245CC2D3AC629195E479
  | 0xB => 0xE7C8376D8DD54EA96C56F4EA657AAE08
  | 0xC => 0xBA78252E1CA6B4C6E8DD741F4BBD8B8A
  | 0xD => 0x703EB5664803F60E613557B986C11D9E
  | 0xE => 0xE1F8981169D98E949B1E87E9CE5528DF
  | _ => 0x8CA1890DBFE6426841992D0FB054BB16

/-- The S-box (44_round_primitives.md R201): row `x[7:4]`, column `x[3:0]`. -/
def sbox (x : Byte) : Byte := (sboxRow (x.toNat / 16)).extractLsb' (8 * (15 - x.toNat % 16)) 8

/-- Row `x[7:4]` of the inverse S-box table (44_round_primitives.md R205). -/
def invSboxRow : Nat → BitVec 128
  | 0x0 => 0x52096AD53036A538BF40A39E81F3D7FB
  | 0x1 => 0x7CE339829B2FFF87348E4344C4DEE9CB
  | 0x2 => 0x547B9432A6C2233DEE4C950B42FAC34E
  | 0x3 => 0x082EA16628D924B2765BA2496D8BD125
  | 0x4 => 0x72F8F66486689816D4A45CCC5D65B692
  | 0x5 => 0x6C704850FDEDB9DA5E154657A78D9D84
  | 0x6 => 0x90D8AB008CBCD30AF7E45805B8B34506
  | 0x7 => 0xD02C1E8FCA3F0F02C1AFBD0301138A6B
  | 0x8 => 0x3A9111414F67DCEA97F2CFCEF0B4E673
  | 0x9 => 0x96AC7422E7AD3585E2F937E81C75DF6E
  | 0xA => 0x47F11A711D29C5896FB7620EAA18BE1B
  | 0xB => 0xFC563E4BC6D279209ADBC0FE78CD5AF4
  | 0xC => 0x1FDDA8338807C731B11210592780EC5F
  | 0xD => 0x60517FA919B54A0D2DE57A9F93C99CEF
  | 0xE => 0xA0E03B4DAE2AF5B0C8EBBB3C83539961
  | _ => 0x172B047EBA77D626E169146355210C7D

/-- The inverse S-box (44_round_primitives.md R205). -/
def invSbox (x : Byte) : Byte := (invSboxRow (x.toNat / 16)).extractLsb' (8 * (15 - x.toNat % 16)) 8

end Sys2Proof.Machine
end

