-- ==== Sys2Proof/Machine/KeySchedule.lean ====
section
/-! DEFINITION. The key-schedule expander: EXPAND and KSTEP (43_key_schedule.md). -/

namespace Sys2Proof.Machine

/-- `RotWord` (43_key_schedule.md R180). -/
def rotWord (w : Word) : Word := ⟨w.w1, w.w2, w.w3, w.w0⟩

/-- `SubWord` (43_key_schedule.md R180). -/
def subWord (w : Word) : Word := ⟨sbox w.w0, sbox w.w1, sbox w.w2, sbox w.w3⟩

/-- The GF(2^8) doubling of 1, `n` times (43_key_schedule.md R180). -/
def doublings : Nat → Byte
  | 0 => 0x01
  | n + 1 => xtime (doublings n)

/-- `Rcon(r) = [rc(r), 0, 0, 0]`, with `rc(r)` the `r - 1` times doubled 1 (43_key_schedule.md R180). -/
def rcon (r : Nat) : Word := ⟨doublings (r - 1), 0, 0, 0⟩

/-- The detail of `kstep(Kprev, r)` (43_key_schedule.md R181). -/
def kstepDetail (prev : Block) (r : Nat) : KeyDetail :=
  let rot := rotWord prev.c3
  let sub := subWord rot
  let t := sub.xor (rcon r)
  let w4 := prev.c0.xor t
  let w5 := prev.c1.xor w4
  let w6 := prev.c2.xor w5
  let w7 := prev.c3.xor w6
  { source := prev, rot := rot, sub := sub, rcon := rcon r, t := t, derived := ⟨w4, w5, w6, w7⟩ }

/-- `kstep(Kprev, r)` (43_key_schedule.md R181). -/
def kstep (prev : Block) (r : Nat) : Block := (kstepDetail prev r).derived

/-- Round key `K_r` of the key `K_0` (43_key_schedule.md R181). -/
def roundKey (k0 : Block) : Nat → Block
  | 0 => k0
  | r + 1 => kstep (roundKey k0 r) (r + 1)

/-- `expandKey`: the eleven round keys (43_key_schedule.md R181). -/
def expandKey (k0 : Block) : Vector Block 11 :=
  #v[roundKey k0 0, roundKey k0 1, roundKey k0 2, roundKey k0 3, roundKey k0 4, roundKey k0 5,
    roundKey k0 6, roundKey k0 7, roundKey k0 8, roundKey k0 9, roundKey k0 10]

/-- The RK snapshot of a command that used AES with KEY (43_key_schedule.md R182, 10_state.md R45). -/
def withRk (s : State) : State := { s with rk := expandKey s.key }

/-- EXPAND (43_key_schedule.md R184). -/
def execExpand (s : State) : Host.Outcome State Fault Refusal :=
  finish s (guarded [need s .key] (withRk s))

/-- KSTEP r (43_key_schedule.md R183); R outside 1..10 is IllegalCommand (30_encoding.md R122; log 10). -/
def execKstep (r : BitVec 4) (s : State) : Host.Outcome State Fault Refusal :=
  finish s (guarded
    [failIf (r.toNat < 1 ∨ 10 < r.toNat) .illegalCommand, need s .key]
    { withRk s with ksd := kstepDetail (roundKey s.key (r.toNat - 1)) r.toNat })

end Sys2Proof.Machine
end

