-- ==== Sys2Proof/Machine/Round.lean ====
section
/-! DEFINITION. The round engine: AddRoundKey, SubBytes, ShiftRows, MixColumns, their inverses, and the
seven commands that apply them to STATE (44_round_primitives.md). -/

namespace Sys2Proof.Machine

/-- `AddRoundKey(s, k) = s ⊕ k` (44_round_primitives.md R200). -/
def addRoundKey (x k : Block) : Block := x.xor k

/-- A byte function on every byte of a word. -/
def wordMap (f : Byte → Byte) (w : Word) : Word := ⟨f w.w0, f w.w1, f w.w2, f w.w3⟩

/-- A word function on every column of a block. -/
def columnMap (f : Word → Word) (x : Block) : Block := ⟨f x.c0, f x.c1, f x.c2, f x.c3⟩

/-- `SubBytes` (44_round_primitives.md R202). -/
def subBytes (x : Block) : Block := columnMap (wordMap sbox) x

/-- `InvSubBytes` (44_round_primitives.md R206). -/
def invSubBytes (x : Block) : Block := columnMap (wordMap invSbox) x

/-- `ShiftRows`: row `r` of the State Grid rotated left by `r` (44_round_primitives.md R203). -/
def shiftRows (x : Block) : Block :=
  ⟨⟨x.c0.w0, x.c1.w1, x.c2.w2, x.c3.w3⟩, ⟨x.c1.w0, x.c2.w1, x.c3.w2, x.c0.w3⟩,
    ⟨x.c2.w0, x.c3.w1, x.c0.w2, x.c1.w3⟩, ⟨x.c3.w0, x.c0.w1, x.c1.w2, x.c2.w3⟩⟩

/-- `InvShiftRows`: row `r` rotated right by `r` (44_round_primitives.md R207). -/
def invShiftRows (x : Block) : Block :=
  ⟨⟨x.c0.w0, x.c3.w1, x.c2.w2, x.c1.w3⟩, ⟨x.c1.w0, x.c0.w1, x.c3.w2, x.c2.w3⟩,
    ⟨x.c2.w0, x.c1.w1, x.c0.w2, x.c3.w3⟩, ⟨x.c3.w0, x.c2.w1, x.c1.w2, x.c0.w3⟩⟩

/-- One row of a matrix times a column, over GF(2^8). -/
def gfDot (m0 m1 m2 m3 : Byte) (a : Word) : Byte :=
  gmul m0 a.w0 ^^^ gmul m1 a.w1 ^^^ gmul m2 a.w2 ^^^ gmul m3 a.w3

/-- The matrix of 44_round_primitives.md R204 times a column. -/
def mixColumn (a : Word) : Word :=
  ⟨gfDot 2 3 1 1 a, gfDot 1 2 3 1 a, gfDot 1 1 2 3 a, gfDot 3 1 1 2 a⟩

/-- The matrix of 44_round_primitives.md R208 times a column. -/
def invMixColumn (a : Word) : Word :=
  ⟨gfDot 0x0E 0x0B 0x0D 0x09 a, gfDot 0x09 0x0E 0x0B 0x0D a,
    gfDot 0x0D 0x09 0x0E 0x0B a, gfDot 0x0B 0x0D 0x09 0x0E a⟩

/-- `MixColumns` (44_round_primitives.md R204). -/
def mixColumns (x : Block) : Block := columnMap mixColumn x

/-- `InvMixColumns` (44_round_primitives.md R208). -/
def invMixColumns (x : Block) : Block := columnMap invMixColumn x

/-- A command that applies `f` to STATE in place and reads no key (44_round_primitives.md section 2). -/
def stateCommand (f : Block → Block) (s : State) : Host.Outcome State Fault Refusal :=
  finish s (guarded [need s .state] { s with state := f s.state })

/-- ARK r (44_round_primitives.md R210); R over 10 is IllegalCommand (30_encoding.md R122; log 10). -/
def execArk (r : BitVec 4) (s : State) : Host.Outcome State Fault Refusal :=
  finish s (guarded
    [failIf (10 < r.toNat) .illegalCommand, need s .key, need s .state]
    { withRk s with state := addRoundKey s.state (roundKey s.key r.toNat) })

/-- SUBB (44_round_primitives.md R211). -/
def execSubb (s : State) : Host.Outcome State Fault Refusal := stateCommand subBytes s

/-- SHROW (44_round_primitives.md R212). -/
def execShrow (s : State) : Host.Outcome State Fault Refusal := stateCommand shiftRows s

/-- MIXCOL (44_round_primitives.md R213). -/
def execMixcol (s : State) : Host.Outcome State Fault Refusal := stateCommand mixColumns s

/-- INVSUBB (44_round_primitives.md R214). -/
def execInvsubb (s : State) : Host.Outcome State Fault Refusal := stateCommand invSubBytes s

/-- INVSHROW (44_round_primitives.md R215). -/
def execInvshrow (s : State) : Host.Outcome State Fault Refusal := stateCommand invShiftRows s

/-- INVMIXCOL (44_round_primitives.md R216). -/
def execInvmixcol (s : State) : Host.Outcome State Fault Refusal := stateCommand invMixColumns s

end Sys2Proof.Machine
end

