-- ==== Sys2Proof/Machine/Cipher.lean ====
section
/-! DEFINITION. The single-block cipher and the step trace: ENCB, DECB and TRACE (45_block_cipher.md). -/

namespace Sys2Proof.Machine

/-- A middle round of E_aes with round key `k` (45_block_cipher.md R230). -/
def encRound (x k : Block) : Block := addRoundKey (mixColumns (shiftRows (subBytes x))) k

/-- A middle round of D_aes with round key `k` (45_block_cipher.md R231). -/
def decRound (x k : Block) : Block := invMixColumns (addRoundKey (invSubBytes (invShiftRows x)) k)

/-- The state of E_aes after the initial AddRoundKey and rounds `1..n` (45_block_cipher.md R230). -/
def encState (p k0 : Block) : Nat → Block
  | 0 => addRoundKey p (roundKey k0 0)
  | n + 1 => encRound (encState p k0 n) (roundKey k0 (n + 1))

/-- `E_aes(P, K0)` (45_block_cipher.md R230). -/
def aesEncrypt (p k0 : Block) : Block :=
  addRoundKey (shiftRows (subBytes (encState p k0 9))) (roundKey k0 10)

/-- D_aes's middle rounds `n` down to 1 (45_block_cipher.md R231). -/
def decRounds (k0 : Block) : Nat → Block → Block
  | 0, x => x
  | n + 1, x => decRounds k0 n (decRound x (roundKey k0 (n + 1)))

/-- `D_aes(C, K0)` (45_block_cipher.md R231). -/
def aesDecrypt (c k0 : Block) : Block :=
  addRoundKey (invSubBytes (invShiftRows (decRounds k0 9 (addRoundKey c (roundKey k0 10)))))
    (roundKey k0 0)

/-- The input of display round `r + 1` (45_block_cipher.md R232). -/
def traceInput (p k0 : Block) : Nat → Block
  | 0 => p
  | j + 1 => mixColumns (shiftRows (subBytes (addRoundKey (traceInput p k0 j) (roundKey k0 j))))

/-- The trace registers of round index `r` (45_block_cipher.md R232). -/
def traceRegs (p k0 : Block) (r : Nat) : TraceRegs :=
  let y := traceInput p k0 r
  let a := addRoundKey y (roundKey k0 r)
  let b := subBytes a
  let c := shiftRows b
  { input := y, ark := a, sb := b, sr := c,
    last := if r ≤ 8 then mixColumns c else addRoundKey c (roundKey k0 10) }

/-- ENCB (45_block_cipher.md R233). -/
def execEncb (s : State) : Host.Outcome State Fault Refusal :=
  finish s (guarded [need s .key, need s .state]
    { withRk s with state := aesEncrypt s.state s.key })

/-- DECB (45_block_cipher.md R234). -/
def execDecb (s : State) : Host.Outcome State Fault Refusal :=
  finish s (guarded [need s .key, need s .state]
    { withRk s with state := aesDecrypt s.state s.key })

/-- TRACE r (45_block_cipher.md R232); R over 9 is IllegalCommand (30_encoding.md R122; log 10). -/
def execTrace (r : BitVec 4) (s : State) : Host.Outcome State Fault Refusal :=
  finish s (guarded
    [failIf (9 < r.toNat) .illegalCommand, need s .key, need s .state]
    { withRk s with
      tr := traceRegs s.state s.key r.toNat
      ksd := kstepDetail (roundKey s.key r.toNat) (r.toNat + 1) })

end Sys2Proof.Machine
end

