-- ==== Sys2Proof/Machine/Control.lean ====
section
/-! DEFINITION. NOP, CLEAR and XFER (40_control.md), and the completion of a word that is no command
(30_encoding.md R120, R124). -/

namespace Sys2Proof.Machine

/-- NOP (40_control.md R140): completion only. -/
def execNop (s : State) : Host.Outcome State Fault Refusal := finish s (.ok s)

/-- CLEAR (40_control.md R141): the masks, OUT_LEN and the two sticky flags become 0. -/
def execClear (s : State) : Host.Outcome State Fault Refusal :=
  finish s (.ok { s with
    keyM := 0
    stateM := 0
    ivM := 0
    nonceM := 0
    ctr0M := 0
    outLen := 0
    status := { s.status with errSticky := false, writeIgnored := false } })

/-- XFER (40_control.md R142): OUT_LEN bytes of MSG_OUT to MSG_IN, and LEN. -/
def execXfer (s : State) : Host.Outcome State Fault Refusal :=
  finish s (guarded [failIf (s.cfg.msgbufBytes < s.outLen.toNat) .invalidBlockLength]
    { writeIn s (readOut s s.outLen.toNat) with len := s.outLen })

/-- A command word that is not legal is accepted and completes with IllegalCommand (30_encoding.md R120,
R122, R124). -/
def completeIllegal (s : State) : Host.Outcome State Fault Refusal :=
  finish s (.error .illegalCommand)

end Sys2Proof.Machine
end

