-- ==== Sys2Proof/Machine/Modes.lean ====
section
/-! DEFINITION. The chaining-mode compositor: ECBENC, ECBDEC, CBCENC, CBCENCT, CBCDEC and CTRX
(46_modes.md). Each command's pseudocode is a `…Body`, which RUN shares (47_router.md R301). -/

namespace Sys2Proof.Machine

/-- `E(X)` (46_modes.md R251). -/
def blockEnc : Cipher → Block → Block → Block
  | .aes, k, x => aesEncrypt x k
  | .xor, k, x => x.xor k

/-- `D(X)` (46_modes.md R251). -/
def blockDec : Cipher → Block → Block → Block
  | .aes, k, x => aesDecrypt x k
  | .xor, k, x => x.xor k

/-- The RK snapshot of a mode command: with AES only (46_modes.md R251, 43_key_schedule.md R182). -/
def cipherRk (c : Cipher) (s : State) : Vector Block 11 :=
  match c with
  | .aes => expandKey s.key
  | .xor => s.rk

/-- PKCS7 padding (46_modes.md R252). -/
def pkcs7Pad (l : List Byte) : List Byte :=
  l ++ List.replicate (16 - l.length % 16) (BitVec.ofNat 8 (16 - l.length % 16))

/-- PKCS7 strip: only a pad byte over the length is an error (46_modes.md R253). -/
def pkcs7Strip (l : List Byte) : Except CmdError (List Byte) :=
  let p := (l.getLast?.getD 0).toNat
  if l.length < p then .error .invalidBlockLength else .ok (l.take (l.length - p))

/-- The padded message of an encrypting command (46_modes.md R254, R256). -/
def padMessage (s : State) : List Byte := if ctrlPad s then pkcs7Pad (message s) else message s

/-- The unpadded result of a decrypting command (46_modes.md R255, R258). -/
def stripMessage (s : State) (l : List Byte) : Except CmdError (List Byte) :=
  if ctrlPad s then pkcs7Strip l else .ok l

/-- The alignment check of an encrypting command: only without padding (46_modes.md R254, R256). -/
def needAlignedEnc (s : State) : Option CmdError :=
  failIf (ctrlPad s = false ∧ s.len.toNat % 16 ≠ 0) .invalidBlockLength

/-- The alignment check of a decrypting command (46_modes.md R255, R258). -/
def needAlignedDec (s : State) : Option CmdError :=
  failIf (s.len.toNat % 16 ≠ 0) .invalidBlockLength

/-- A padded ciphertext has at least one block (46_modes.md R255, R258). -/
def needNonempty (s : State) : Option CmdError :=
  failIf (ctrlPad s = true ∧ s.len.toNat = 0) .invalidBlockLength

/-- The blocks of a byte sequence of whole blocks (46_modes.md). -/
def wholeBlocks (l : List Byte) : List Block := blocksOf (l.length / 16) l

/-- The blocks of CBC encryption with previous ciphertext `c` (46_modes.md R256). -/
def cbcEncBlocks (e : Block → Block) : Block → List Block → List Block
  | _, [] => []
  | c, x :: xs => e (x.xor c) :: cbcEncBlocks e (e (x.xor c)) xs

/-- The blocks of CBC decryption with previous ciphertext `c` (46_modes.md R258). -/
def cbcDecBlocks (d : Block → Block) : Block → List Block → List Block
  | _, [] => []
  | c, y :: ys => (d y).xor c :: cbcDecBlocks d y ys

/-- The last ciphertext block, or `iv` if there is none (46_modes.md R256, R258). -/
def lastBlock (iv : Block) (l : List Block) : Block := l.getLast?.getD iv

/-- The message of CBCENCT padded to the next block boundary (46_modes.md R257). -/
def truncPadded (pad : TruncPad) (l : List Byte) : List Byte :=
  let q := 16 * ((l.length + 15) / 16) - l.length
  l ++ List.replicate q (match pad with | .pkcs7 => BitVec.ofNat 8 q | .zero => 0)

/-- `enc8(v)`: the counter's bytes, the most significant first unless `le` (46_modes.md R262). -/
def enc8 (le : Bool) (v : BitVec 64) : Half :=
  let h := halfOfBits v
  if le then ⟨⟨h.lo.w3, h.lo.w2, h.lo.w1, h.lo.w0⟩, ⟨h.hi.w3, h.hi.w2, h.hi.w1, h.hi.w0⟩⟩ else h

/-- The counter value of block `i`, modulo 2^64 (46_modes.md R261). -/
def ctrValue (s : State) (i : Nat) : BitVec 64 := halfToBits s.ctr0 + BitVec.ofNat 64 i

/-- The counter block `cb(i) = NONCE ‖ enc8(ctr(i))` (46_modes.md R262). -/
def ctrBlock (s : State) (i : Nat) : Block :=
  let v := enc8 (ctrlCtrLe s) (ctrValue s i)
  ⟨s.nonce.hi, s.nonce.lo, v.hi, v.lo⟩

/-- The keystream of `m` blocks (46_modes.md R263). -/
def keystream (c : Cipher) (s : State) (m : Nat) : List Byte :=
  bytesOf ((List.range m).map (fun i => blockEnc c s.key (ctrBlock s i)))

/-- ECBENC's pseudocode (46_modes.md R254). -/
def ecbEncBody (s : State) : Except CmdError State :=
  match ctrlCipher s with
  | none => .error .illegalCommand
  | some c =>
    guarded [need s .key, needLen s, needAlignedEnc s]
      { writeOutput s (bytesOf ((wholeBlocks (padMessage s)).map (blockEnc c s.key))) with
        rk := cipherRk c s }

/-- The result of a decrypting command, once its unstripped plaintext and its CHAIN are known
(46_modes.md R255, R258). -/
def decResult (c : Cipher) (s : State) (plain : List Byte) (chain : Block) : Except CmdError State :=
  match stripMessage s plain with
  | .error e => .error e
  | .ok z => .ok { writeOutput s z with rk := cipherRk c s, chain := chain }

/-- ECBDEC's pseudocode (46_modes.md R255). -/
def ecbDecBody (s : State) : Except CmdError State :=
  match ctrlCipher s with
  | none => .error .illegalCommand
  | some c =>
    match guarded [need s .key, needLen s, needAlignedDec s, needNonempty s] () with
    | .error e => .error e
    | .ok () =>
      decResult c s (bytesOf ((wholeBlocks (message s)).map (blockDec c s.key))) s.chain

/-- CBCENC's pseudocode (46_modes.md R256). -/
def cbcEncBody (s : State) : Except CmdError State :=
  match ctrlCipher s with
  | none => .error .illegalCommand
  | some c =>
    let ys := cbcEncBlocks (blockEnc c s.key) s.iv (wholeBlocks (padMessage s))
    guarded [need s .key, need s .iv, needLen s, needAlignedEnc s]
      { writeOutput s (bytesOf ys) with rk := cipherRk c s, chain := lastBlock s.iv ys }

/-- CBCENCT's pseudocode (46_modes.md R257). -/
def cbcEncTruncBody (s : State) : Except CmdError State :=
  match ctrlCipher s with
  | none => .error .illegalCommand
  | some c =>
    let ys := cbcEncBlocks (blockEnc c s.key) s.iv (wholeBlocks (truncPadded s.cfg.truncPad (message s)))
    guarded [need s .key, need s .iv, needLen s]
      { writeOutput s ((bytesOf ys).take s.len.toNat) with
        rk := cipherRk c s, chain := lastBlock s.iv ys }

/-- CBCDEC's pseudocode (46_modes.md R258). -/
def cbcDecBody (s : State) : Except CmdError State :=
  match ctrlCipher s with
  | none => .error .illegalCommand
  | some c =>
    let xs := wholeBlocks (message s)
    match guarded [need s .key, need s .iv, needLen s, needAlignedDec s, needNonempty s] () with
    | .error e => .error e
    | .ok () =>
      decResult c s (bytesOf (cbcDecBlocks (blockDec c s.key) s.iv xs)) (lastBlock s.iv xs)

/-- CTRX's pseudocode (46_modes.md R263). -/
def ctrBody (s : State) : Except CmdError State :=
  match ctrlCipher s with
  | none => .error .illegalCommand
  | some c =>
    let m := (s.len.toNat + 15) / 16
    guarded [need s .key, need s .nonce, need s .ctr0, needLen s]
      { writeOutput s (List.zipWith (· ^^^ ·) (message s) (keystream c s m)) with
        rk := cipherRk c s, ctrcur := halfOfBits (ctrValue s m) }

/-- ECBENC (46_modes.md R254). -/
def execEcbenc (s : State) : Host.Outcome State Fault Refusal := finish s (ecbEncBody s)

/-- ECBDEC (46_modes.md R255). -/
def execEcbdec (s : State) : Host.Outcome State Fault Refusal := finish s (ecbDecBody s)

/-- CBCENC (46_modes.md R256). -/
def execCbcenc (s : State) : Host.Outcome State Fault Refusal := finish s (cbcEncBody s)

/-- CBCENCT (46_modes.md R257). -/
def execCbcenct (s : State) : Host.Outcome State Fault Refusal := finish s (cbcEncTruncBody s)

/-- CBCDEC (46_modes.md R258). -/
def execCbcdec (s : State) : Host.Outcome State Fault Refusal := finish s (cbcDecBody s)

/-- CTRX (46_modes.md R263). -/
def execCtrx (s : State) : Host.Outcome State Fault Refusal := finish s (ctrBody s)

end Sys2Proof.Machine
end

