-- ==== Sys2Proof/Machine/Router.lean ====
section
/-! DEFINITION. The mode router: the graph of NODE and EDGE, the resolution of a cipher node's producers,
ROUTE and RUN (47_router.md). -/

namespace Sys2Proof.Machine

/-! ### The graph (47_router.md R290, 10_state.md R52, R53) -/

/-- NODE[n]. -/
def nodeEntry (s : State) (n : Nat) : HWord := tableGet s.nodes n

/-- EDGE[j]. -/
def edgeEntry (s : State) (j : Nat) : HWord := tableGet s.edges j

/-- EDGE[j].SRC. -/
def edgeSrc (s : State) (j : Nat) : Nat := ((edgeEntry s j).extractLsb' 0 8).toNat

/-- EDGE[j].SPORT. -/
def edgeSport (s : State) (j : Nat) : Nat := ((edgeEntry s j).extractLsb' 8 4).toNat

/-- EDGE[j].DST. -/
def edgeDst (s : State) (j : Nat) : Nat := ((edgeEntry s j).extractLsb' 12 8).toNat

/-- EDGE[j].DPORT. -/
def edgeDport (s : State) (j : Nat) : Nat := ((edgeEntry s j).extractLsb' 20 4).toNat

/-- `valid_node(n)` (47_router.md R290). -/
def validNode (s : State) (n : Nat) : Bool :=
  decide (n < s.cfg.nNodes) && (nodeEntry s n).getLsbD 31

/-- `kind(n)`; none for the reserved kind 7, which belongs to no kind set (10_state.md R52, 47_router.md
R290). -/
def nodeKind (s : State) (n : Nat) : Option NodeKind :=
  match ((nodeEntry s n).extractLsb' 0 3).toNat with
  | 0 => some .plaintextSource
  | 1 => some .keySource
  | 2 => some .ivSource
  | 3 => some .counterSource
  | 4 => some .cipherBlock
  | 5 => some .combineXor
  | 6 => some .ciphertextSink
  | _ => none

/-- `kind(n)` is in the set `ks`. -/
def kindIn (s : State) (n : Nat) (ks : List NodeKind) : Bool :=
  match nodeKind s n with
  | some k => ks.contains k
  | none => false

/-- `valid_edge(j)`, for `j < N_EDGES` (47_router.md R290). -/
def validEdge (s : State) (j : Nat) : Bool :=
  (edgeEntry s j).getLsbD 31 && validNode s (edgeSrc s j) && validNode s (edgeDst s j)

/-- The least edge index that satisfies `p`, in edge order (47_router.md R290). -/
def firstEdge (s : State) (p : Nat → Bool) : Option Nat := (List.range s.cfg.nEdges).find? p

/-- `honored(n, p)` (47_router.md R291). -/
def honored (s : State) (n p : Nat) : Option Nat :=
  firstEdge s (fun j => validEdge s j && edgeDst s j == n && edgeDport s j == p)

/-- `first_in(n, p)` (47_router.md R291). -/
def firstIn (s : State) (n p : Nat) : Option Nat := (honored s n p).map (edgeSrc s)

/-- `first_in_kind(m, Kset, c)` (47_router.md R292). -/
def firstInKind (s : State) (m : Nat) (ks : List NodeKind) (c : Nat) : Option Nat :=
  (firstEdge s (fun j =>
    (List.range 7).any (fun p => honored s m p == some j) &&
      kindIn s (edgeSrc s j) ks && edgeSrc s j != c)).map (edgeSrc s)

/-- `first_out_kind(c, Kset)` (47_router.md R292). -/
def firstOutKind (s : State) (c : Nat) (ks : List NodeKind) : Option Nat :=
  (firstEdge s (fun j =>
    validEdge s j && edgeSrc s j == c && edgeSport s j == 0 &&
      kindIn s (edgeDst s j) ks && edgeDst s j != c)).map (edgeDst s)

/-! ### Resolution (47_router.md R293 to R296) -/

/-- The direct port of a role (47_router.md R293). -/
def rolePort : Role → Nat
  | .pt => 1
  | .key => 2
  | .chain => 3
  | .ctr => 4

/-- The producer kinds of a role (47_router.md R293). -/
def roleKinds : Role → List NodeKind
  | .pt => [.plaintextSource]
  | .key => [.keySource]
  | .chain => [.ivSource, .cipherBlock]
  | .ctr => [.counterSource]

/-- The combine node of `resolve`: the one that feeds the role's port, else, when no combine node does,
the one that feeds the `xor` port (47_router.md R294). -/
def hopNode (s : State) (c : Nat) (role : Role) : Option Nat :=
  match firstIn s c (rolePort role) with
  | some m => if nodeKind s m = some .combineXor then some m else xorHop
  | none => xorHop
where
  /-- The combine node that feeds the `xor` port of `c`. -/
  xorHop : Option Nat :=
    match firstIn s c 6 with
    | some x => if nodeKind s x = some .combineXor then some x else none
    | none => none

/-- `resolve` through one combine node (47_router.md R294). -/
def resolveHop (s : State) (c : Nat) (role : Role) : Option (Nat × Option Nat) :=
  match hopNode s c role with
  | some m => (firstInKind s m (roleKinds role) c).map (fun t => (t, some m))
  | none => none

/-- `resolve(c, role)`: the producer and the combine node it went through (47_router.md R294). -/
def resolve (s : State) (c : Nat) (role : Role) : Option (Nat × Option Nat) :=
  match firstIn s c (rolePort role) with
  | some p => if p ≠ c ∧ kindIn s p (roleKinds role) = true then some (p, none) else resolveHop s c role
  | none => resolveHop s c role


/-- The roles `mode` requires, in the order of 47_router.md R296. -/
def modeRoles : Mode → List Role
  | .ecb => [.pt, .key]
  | .cbc => [.pt, .key, .chain]
  | .ctr => [.pt, .key, .ctr]

/-- The downstream combine node of CTR (47_router.md R295). -/
def downNode (s : State) (c : Nat) : Option Nat := firstOutKind s c [.combineXor]

/-- The producer of a role in a mode, and the combine node that counts for HOP_NODE: PT in CTR mode is
found downstream and has none (47_router.md R295, R296). -/
def roleProducer (s : State) (mode : Mode) (c : Nat) (role : Role) : Option (Nat × Option Nat) :=
  if mode = .ctr ∧ role = .pt then
    match downNode s c with
    | some d => (firstInKind s d [.plaintextSource] c).map (fun t => (t, none))
    | none => none
  else resolve s c role

/-- A node id as a field of ROUTE_RES0 or ROUTE_RES1: 0xFF for none (10_state.md R49). -/
def idField : Option Nat → BitVec 8
  | some n => BitVec.ofNat 8 n
  | none => 0xFF

/-- The field of a role: 0xFF where the mode does not require it or it does not resolve (47_router.md
R296). -/
def roleField (s : State) (mode : Mode) (c : Nat) (role : Role) : BitVec 8 :=
  if role ∈ modeRoles mode then idField ((roleProducer s mode c role).map Prod.fst) else 0xFF

/-- HOP_NODE: the combine node of the first role that went through one (47_router.md R296). -/
def hopField (s : State) (mode : Mode) (c : Nat) : BitVec 8 :=
  idField ((modeRoles mode).findSome? (fun role => (roleProducer s mode c role).bind Prod.snd))

/-- DOWN_NODE: the downstream combine node that CTR found (47_router.md R296). -/
def downField (s : State) (mode : Mode) (c : Nat) : BitVec 8 :=
  match mode with
  | .ctr => idField (downNode s c)
  | _ => 0xFF

/-- ROUTE_NODE names a cipher node (47_router.md R296). -/
def routeNodeOk (s : State) : Bool :=
  validNode s s.routeNode.toNat && kindIn s s.routeNode.toNat [.cipherBlock]

/-- `ok` of `route()` (47_router.md R296). -/
def routeOk (s : State) (mode : Mode) : Bool :=
  routeNodeOk s &&
    (modeRoles mode).all (fun role => (roleProducer s mode s.routeNode.toNat role).isSome)

/-- The state with `res0` and `res1` of `route()` in ROUTE_RES0 and ROUTE_RES1 (47_router.md R296, R297). -/
def routed (s : State) (mode : Mode) : State :=
  let c := s.routeNode.toNat
  if routeNodeOk s then
    { s with
      routeRes0 := roleField s mode c .ctr ++ roleField s mode c .chain ++
        roleField s mode c .key ++ roleField s mode c .pt
      routeRes1 := downField s mode c ++ hopField s mode c }
  else { s with routeRes0 := 0xFFFFFFFF, routeRes1 := 0xFFFF }

/-! ### Commands -/

/-- ROUTE (47_router.md R299); its results are kept when a role does not resolve (R297). -/
def execRoute (s : State) : Host.Outcome State Fault Refusal :=
  match ctrlMode s with
  | none => finish s (.error .illegalCommand)
  | some mode =>
    finish (routed s mode)
      (if routeOk s mode then .ok (routed s mode) else .error .missingInput)

/-- The command RUN dispatches to (47_router.md R300). -/
def runBody (s : State) : Mode → Except CmdError State
  | .ecb => if ctrlDir s then ecbDecBody s else ecbEncBody s
  | .cbc => if ctrlDir s then cbcDecBody s else if ctrlTrunc s then cbcEncTruncBody s else cbcEncBody s
  | .ctr => ctrBody s

/-- RUN (47_router.md R301); the route's results are kept on every later error (R297). -/
def execRun (s : State) : Host.Outcome State Fault Refusal :=
  match ctrlMode s, ctrlCipher s with
  | some mode, some _ =>
    finish (routed s mode)
      (if routeOk s mode then runBody (routed s mode) mode else .error .missingInput)
  | _, _ => finish s (.error .illegalCommand)

end Sys2Proof.Machine
end

