-- ==== Sys2Proof/Machine/XorDemo.lean ====
section
/-! DEFINITION. The demonstration XOR cipher: XORDEMO (41_xor_demo.md). -/

namespace Sys2Proof.Machine

/-- The XOR of the first `p` bits of two bit strings, the bits past `p` zero (41_xor_demo.md R150, R151). -/
def xorPrefix (x k : Block) (p : Nat) : Block :=
  blockOfBits ((blockToBits x ^^^ blockToBits k) &&& (BitVec.allOnes 128 <<< (128 - p)))

/-- XORDEMO (41_xor_demo.md R150). -/
def execXordemo (s : State) : Host.Outcome State Fault Refusal :=
  finish s (guarded
    [need s .key, need s .state,
      failIf (128 < ptBits s ∨ 128 < keyBits s) .invalidBlockLength,
      failIf (ptBits s ≠ keyBits s) .lengthMismatch]
    { s with state := xorPrefix s.state s.key (ptBits s) })

end Sys2Proof.Machine
end

