-- ==== Sys2Proof/Machine/Dispatch.lean ====
section
/-! DEFINITION. The completion of an accepted command, one arm for each row of spec/opcode_table.json. -/

namespace Sys2Proof.Machine

-- The completion step of the command `i` on the state `s` as it was at acceptance (60_exceptions.md R322).
def exec (i : Instr) (s : State) : Host.Outcome State Fault Refusal :=
  match i with
  | .nop => Sys2Proof.Machine.execNop s
  | .clear => Sys2Proof.Machine.execClear s
  | .xfer => Sys2Proof.Machine.execXfer s
  | .expand => Sys2Proof.Machine.execExpand s
  | .kstep r => Sys2Proof.Machine.execKstep r s
  | .ark r => Sys2Proof.Machine.execArk r s
  | .subb => Sys2Proof.Machine.execSubb s
  | .shrow => Sys2Proof.Machine.execShrow s
  | .mixcol => Sys2Proof.Machine.execMixcol s
  | .invsubb => Sys2Proof.Machine.execInvsubb s
  | .invshrow => Sys2Proof.Machine.execInvshrow s
  | .invmixcol => Sys2Proof.Machine.execInvmixcol s
  | .encb => Sys2Proof.Machine.execEncb s
  | .decb => Sys2Proof.Machine.execDecb s
  | .trace r => Sys2Proof.Machine.execTrace r s
  | .xtime a => Sys2Proof.Machine.execXtime a s
  | .gmul a b => Sys2Proof.Machine.execGmul a b s
  | .ecbenc => Sys2Proof.Machine.execEcbenc s
  | .ecbdec => Sys2Proof.Machine.execEcbdec s
  | .cbcenc => Sys2Proof.Machine.execCbcenc s
  | .cbcenct => Sys2Proof.Machine.execCbcenct s
  | .cbcdec => Sys2Proof.Machine.execCbcdec s
  | .ctrx => Sys2Proof.Machine.execCtrx s
  | .xordemo => Sys2Proof.Machine.execXordemo s
  | .route => Sys2Proof.Machine.execRoute s
  | .run => Sys2Proof.Machine.execRun s

end Sys2Proof.Machine
end

