-- ==== Sys2Proof/Machine/Step.lean ====
section
/-! DEFINITION. One step of the block: the next event of the outside world, or the completion of the
command in flight (60_exceptions.md R320 to R322). -/

namespace Sys2Proof.Machine

/-- The completion of the command in flight: the command its word names, or IllegalCommand (30_encoding.md
R124, 60_exceptions.md R322). -/
def complete (s : State) : Host.Outcome State Fault Refusal :=
  match decode s.cmd with
  | .ok i => exec i s
  | .error _ => completeIllegal s

/-- One step. While a command is in flight and its latency has not run out, the outside world goes on; then
the command completes (60_exceptions.md R320, R322; 70_reset_and_hazards.md R364; log 3). -/
def step (s : State) : Host.Outcome State Fault Refusal :=
  if s.status.busy then
    match s.wait with
    | 0 => complete s
    | n + 1 => .next (busStep { s with wait := n })
  else .next (busStep s)

/-- The state with the command word `w` accepted and due to complete at the very next step (log 8). -/
def State.withFetchWord (s : State) (nbits w : Nat) : State :=
  placeCommand s (BitVec.ofNat 32 (w % 2 ^ nbits))

end Sys2Proof.Machine
end

