-- ==== Sys2Proof/Safety.lean ====
section
/-! DEFINITION. The terms in which claims are stated: the invariant of the block, sequences of commands, and
the blocks of a byte sequence. -/

namespace Sys2Proof.Safety

open Sys2Proof.Machine

/-- STATUS and ERRCODE agree: while busy neither DONE nor ERR is set and ERRCODE is 0 (60_exceptions.md R321),
ERR comes with DONE (R322), ERR is set exactly when ERRCODE is not 0 (R322, 10_state.md R40), and ERRCODE is a
code this block raises (60_exceptions.md R323, R333). -/
abbrev statusOk (s : State) : Prop :=
  (s.status.busy = true → s.status.done = false ∧ s.status.err = false) ∧
    (s.status.err = true → s.status.done = true) ∧
    (s.status.err = true ↔ s.errcode ≠ 0) ∧
    s.errcode ∈ [(0 : BitVec 8), 1, 3, 4, 5, 6]

/-- The memory is in canonical form and lists only bytes of MSG_IN and MSG_OUT (10_state.md R54,
20_memory.md R84, R87). -/
abbrev memOk (s : State) : Prop :=
  s.mem.wf ∧ ∀ c ∈ s.mem,
    (msgInBase ≤ c.1 ∧ c.1 < msgInBase + s.cfg.msgbufBytes) ∨
      (msgOutBase ≤ c.1 ∧ c.1 < msgOutBase + (s.cfg.msgbufBytes + 16))

/-- OUT_LEN fits MSG_OUT, and every byte of MSG_OUT below it holds a value the engine wrote (10_state.md R42,
R54). -/
abbrev outputOk (s : State) : Prop :=
  s.outLen.toNat ≤ s.cfg.msgbufBytes + 16 ∧
    ∀ a, a < s.outLen.toNat → (cellsGet s.mem (msgOutBase + a)).isSome = true

/-- NODE and EDGE are in canonical form and list only entries that exist (10_state.md R52, R53). -/
abbrev tablesOk (s : State) : Prop :=
  s.nodes.wf s.cfg.nNodes ∧ s.edges.wf s.cfg.nEdges

/-- The invariant of the block. -/
structure MachineInv (s : State) : Prop where
  /-- The parameters are legal (00_scope.md R8). -/
  params : s.cfg.legal
  /-- STATUS and ERRCODE agree. -/
  status : statusOk s
  /-- The memory holds the two buffers only. -/
  memory : memOk s
  /-- OUT_LEN covers written bytes only. -/
  output : outputOk s
  /-- The graph tables hold existing entries only. -/
  tables : tablesOk s

/-- A command is in flight and the next step completes it (60_exceptions.md R320, R322). -/
abbrev completes (s : State) : Prop := s.status.busy = true ∧ s.wait = 0

/-- The state once `n` of the steps a command in flight waits for are gone; without one it is `s` (log 3). -/
def waited (s : State) : State := if s.status.busy then { s with wait := s.wait - 1 } else s

/-- A sequence of commands, each evaluated on the state the one before left; `none` if one gives no next
state. -/
def execAll : List Instr → State → Option State
  | [], s => some s
  | i :: rest, s =>
    match exec i s with
    | .next t => execAll rest t
    | .fault _ => none
    | .refused _ => none

/-- Block `i` of a byte sequence: bytes `16i .. 16i+15` (46_modes.md). -/
def blockAt (l : List Byte) (i : Nat) : Block := blockOfBytes (l.drop (16 * i))

/-- The output of a mode command: the first OUT_LEN bytes of MSG_OUT (10_state.md R42). -/
def output (s : State) : List Byte := readOut s s.outLen.toNat

/-- Byte lane `k` of a host word, lane 0 in bits [31:24] (20_memory.md R82). -/
def lane (v : HWord) (k : Nat) : Byte := v.extractLsb' (24 - 8 * k) 8

/-- The size of an operand register in bytes (10_state.md R33, R34). -/
def operandSize : OpReg → Nat
  | .key | .state | .iv => 16
  | .nonce | .ctr0 => 8

/-- The host address of an operand register (20_memory.md R84). -/
def operandBase : OpReg → Nat
  | .key => 0x0100
  | .state => 0x0110
  | .iv => 0x0120
  | .nonce => 0x0130
  | .ctr0 => 0x0138

/-- Byte `k` of an operand register (10_state.md R33, R34). -/
def operandByte (s : State) : OpReg → Nat → Byte
  | .key, k => blockByte s.key k
  | .state, k => blockByte s.state k
  | .iv, k => blockByte s.iv k
  | .nonce, k => if k < 4 then wordByte s.nonce.hi k else wordByte s.nonce.lo (k - 4)
  | .ctr0, k => if k < 4 then wordByte s.ctr0.hi k else wordByte s.ctr0.lo (k - 4)

/-- The validity bit of byte `k` of an operand register (10_state.md R35). -/
def operandMask (s : State) : OpReg → Nat → Bool
  | .key, k => s.keyM.getLsbD k
  | .state, k => s.stateM.getLsbD k
  | .iv, k => s.ivM.getLsbD k
  | .nonce, k => s.nonceM.getLsbD k
  | .ctr0, k => s.ctr0M.getLsbD k

/-- Every byte of the operand register has been written (60_exceptions.md R327). -/
def operandFull (s : State) : OpReg → Prop
  | .key => s.keyM = BitVec.allOnes 16
  | .state => s.stateM = BitVec.allOnes 16
  | .iv => s.ivM = BitVec.allOnes 16
  | .nonce => s.nonceM = BitVec.allOnes 8
  | .ctr0 => s.ctr0M = BitVec.allOnes 8

/-- STATUS after a completion without error (60_exceptions.md R322). -/
def statusDone (st : Status) : Status := { st with busy := false, done := true }

/-- The state after a completion with error `e` that keeps no result (60_exceptions.md R322, R325). -/
def failed (s : State) (e : CmdError) : State :=
  { s with
    errcode := errCode e
    status := { s.status with busy := false, done := true, err := true, errSticky := true } }

/-- What a successful mode command with cipher `c` leaves unchanged: everything but MSG_OUT, OUT_LEN, CHAIN,
CTRCUR, with AES the RK snapshot, the completion flags, and the model's own counters of free values; every byte
of MSG_IN reads as before (46_modes.md R250, R251; 43_key_schedule.md R182). -/
def modeFrame (c : Cipher) (s t : State) : Prop :=
  t = { s with
      mem := t.mem, outLen := t.outLen, chain := t.chain, ctrcur := t.ctrcur
      rk := if c = .aes then expandKey s.key else s.rk
      outGen := t.outGen, draws := t.draws, status := statusDone s.status } ∧
    ∀ a, a < 0x4000 → inByte t a = inByte s a

/-- The commands of one middle round of AES encryption, of index `r` (45_block_cipher.md R230). -/
def roundCommands (r : BitVec 4) : List Instr := [.subb, .shrow, .mixcol, .ark r]

/-- Program P2 of 95_test_vectors.md, forward: AES-128 encryption by single steps (45_block_cipher.md R230). -/
def encryptCommands : List Instr :=
  [.ark 0] ++ roundCommands 1 ++ roundCommands 2 ++ roundCommands 3 ++ roundCommands 4 ++
    roundCommands 5 ++ roundCommands 6 ++ roundCommands 7 ++ roundCommands 8 ++ roundCommands 9 ++
    [.subb, .shrow, .ark 10]

/-- The mode command RUN dispatches to, by MODE, DIR and TRUNC (47_router.md R300). -/
def dispatched (mode : Mode) (dir trunc : Bool) : Instr :=
  match mode, dir, trunc with
  | .ecb, false, _ => .ecbenc
  | .ecb, true, _ => .ecbdec
  | .cbc, false, false => .cbcenc
  | .cbc, false, true => .cbcenct
  | .cbc, true, _ => .cbcdec
  | .ctr, _, _ => .ctrx

/-- The lowest bit of a role's field in ROUTE_RES0 (10_state.md R49). -/
def routeShift : Role → Nat
  | .pt => 0
  | .key => 8
  | .chain => 16
  | .ctr => 24

/-- The error codes each command can end with, by the table of 60_exceptions.md R328; 0 is none. -/
def errorCodes : Instr → List (BitVec 8)
  | .nop | .clear | .xtime _ | .gmul _ _ => [0, 6]
  | .xfer => [0, 3, 6]
  | .expand | .kstep _ | .ark _ | .encb | .decb | .trace _ => [0, 3, 5, 6]
  | .subb | .shrow | .mixcol | .invsubb | .invshrow | .invmixcol => [0, 3, 5, 6]
  | .xordemo => [0, 1, 3, 5, 6]
  | .ecbenc | .ecbdec => [0, 3, 5, 6]
  | .cbcenc | .cbcenct | .cbcdec | .ctrx => [0, 3, 4, 5, 6]
  | .route => [0, 5, 6]
  | .run => [0, 3, 4, 5, 6]

end Sys2Proof.Safety
end

