-- ==== Sys2Proof/Certificates/Slice0/Obligations.lean ====
section
/-! DEFINITION. The statements for the provers. -/

open Sys2Proof Sys2Proof.Machine Sys2Proof.Safety

/-! ### Encoding (30_encoding.md) -/

/-- Decoding the encoding of any well-formed command gives it back, every operand at every value R113 admits
(30_encoding.md R110 to R113). -/
def Obligations.DecodeOfEncode : Prop :=
  ∀ i : Instr, i.wf = true → decode (encode i) = .ok i

/-- Each legal word is the encoding of the one command it decodes to (30_encoding.md R110, R124). -/
def Obligations.EncodeOfDecode : Prop :=
  ∀ (w : HWord) (i : Instr), decode w = .ok i → i.wf = true ∧ encode i = w

/-- `legal(word)` of 30_encoding.md R122, bit by bit, decides whether a word decodes; a word that is not legal
completes with IllegalCommand and writes no result. -/
def Obligations.LegalWords : Prop :=
  (∀ w : HWord,
    (∃ i, decode w = .ok i) ↔
      (w.extractLsb' 0 8 ∈
          [(0x00 : BitVec 8), 0x01, 0x02, 0x10, 0x11, 0x20, 0x21, 0x22, 0x23, 0x24, 0x25, 0x26, 0x28,
            0x29, 0x2A, 0x30, 0x31, 0x40, 0x41, 0x42, 0x43, 0x44, 0x45, 0x50, 0x60, 0x61] ∧
        w.extractLsb' 12 4 = 0 ∧
        (w.extractLsb' 0 8 ∉ [(0x20 : BitVec 8), 0x11, 0x2A] → w.extractLsb' 8 4 = 0) ∧
        (w.extractLsb' 0 8 = 0x20 → (w.extractLsb' 8 4).toNat ≤ 10) ∧
        (w.extractLsb' 0 8 = 0x11 →
          1 ≤ (w.extractLsb' 8 4).toNat ∧ (w.extractLsb' 8 4).toNat ≤ 10) ∧
        (w.extractLsb' 0 8 = 0x2A → (w.extractLsb' 8 4).toNat ≤ 9) ∧
        (w.extractLsb' 0 8 ∉ [(0x30 : BitVec 8), 0x31] → w.extractLsb' 16 8 = 0) ∧
        (w.extractLsb' 0 8 ≠ 0x31 → w.extractLsb' 24 8 = 0))) ∧
  ∀ s : State, completes s → (¬ ∃ i, decode s.cmd = .ok i) → step s = .next (failed s .illegalCommand)

/-- Some words of the opcode map, by the table of 30_encoding.md R113. -/
def Obligations.SampleWords : Prop :=
  decode 0x00000000 = .ok .nop ∧ decode 0x00000A11 = .ok (.kstep 10) ∧
    decode 0x00000A20 = .ok (.ark 10) ∧ decode 0x0000092A = .ok (.trace 9) ∧
    decode 0x00570030 = .ok (.xtime 0x57) ∧ decode 0x83570031 = .ok (.gmul 0x57 0x83) ∧
    decode 0x00000045 = .ok .ctrx ∧ decode 0x00000050 = .ok .xordemo ∧
    decode 0x00000061 = .ok .run ∧ decode 0x00000B20 = .error .roundOutOfRange ∧
    decode 0x00000027 = .error .reservedOpcode ∧ decode 0x00001000 = .error .reservedField ∧
    decode 0x00010060 = .error .unusedA ∧ decode 0x01000030 = .error .unusedB ∧
    decode 0x00000100 = .error .unusedRound

/-! ### The step, acceptance and completion (60_exceptions.md section 1) -/

/-- When the command in flight is due and its word decodes to `i`, the step is `exec i` on the state as it is:
nothing is moved past and nothing else is changed (60_exceptions.md R322, 30_encoding.md R124). -/
def Obligations.StepRunsDecodedCommand : Prop :=
  ∀ (s : State) (i : Instr), completes s → decode s.cmd = .ok i → i.wf = true ∧ step s = exec i s

/-- Acceptance (60_exceptions.md R321): while idle, a write of CMD with all strobes latches the word, sets BUSY
and clears DONE, ERR and ERRCODE; with any other strobes it is ignored; while busy it is ignored and sets WIGN
(70_reset_and_hazards.md R360; that it does so whatever its strobes is the model's reading, log 9). The latency it
draws is the model's free value (log 3). -/
def Obligations.CmdWriteAccepts : Prop :=
  (∀ (s : State) (w : HWord) (rest : List BusEvent), s.status.busy = false →
    s.pending = .write 0 w 0xF :: rest →
    step s = .next { s with
      pending := rest
      cmd := w
      status := { s.status with busy := true, done := false, err := false }
      errcode := 0
      wait := Config.latency s.draws
      draws := s.draws + 1
      resp := some ⟨.okay, none⟩ }) ∧
  (∀ (s : State) (w : HWord) (strb : BitVec 4) (rest : List BusEvent), s.status.busy = false →
    strb ≠ 0xF → s.pending = .write 0 w strb :: rest →
    step s = .next { s with pending := rest, resp := some ⟨.okay, none⟩ }) ∧
  (∀ (s : State) (w : HWord) (strb : BitVec 4) (rest : List BusEvent) (n : Nat), s.status.busy = true →
    s.wait = n + 1 → s.pending = .write 0 w strb :: rest →
    step s = .next { s with
      pending := rest
      wait := n
      status := { s.status with writeIgnored := true }
      resp := some ⟨.okay, none⟩ })

/-- Completion (60_exceptions.md R322, R325; 47_router.md R297): every command ends with BUSY = 0 and DONE = 1;
either it raised nothing and leaves ERR, ERRSTKY (but for CLEAR) and ERRCODE as they were, or it raised `e`, whose
code, ERR and ERRSTKY it sets, and nothing else changed but ROUTE_RES0 and ROUTE_RES1 of ROUTE and RUN, which an
IllegalCommand leaves too. A word that is no command raises IllegalCommand and changes nothing else. -/
def Obligations.CommandsCompleteOrWriteNothing : Prop :=
  (∀ s : State, (∀ i, decode s.cmd ≠ .ok i) → complete s = .next (failed s .illegalCommand)) ∧
  ∀ (i : Instr) (s : State), ∃ t : State, exec i s = .next t ∧
    t.status.busy = false ∧ t.status.done = true ∧
    ((t.status.err = s.status.err ∧ t.errcode = s.errcode ∧
        (i ≠ .clear → t.status.errSticky = s.status.errSticky)) ∨
      ∃ e : CmdError, t = failed { s with routeRes0 := t.routeRes0, routeRes1 := t.routeRes1 } e ∧
        ((i ≠ .route ∧ i ≠ .run) ∨ e = .illegalCommand →
          t.routeRes0 = s.routeRes0 ∧ t.routeRes1 = s.routeRes1))

/-- The table of 60_exceptions.md R328: the error codes each well-formed command can end with, and the reserved
opcodes' one. -/
def Obligations.ErrorsByCommand : Prop :=
  (∀ (i : Instr) (s t : State), s.errcode = 0 → exec i s = .next t → t.errcode ∈ errorCodes i) ∧
  ∀ (s t : State), completes s → decode s.cmd = .error .reservedOpcode → step s = .next t → t.errcode = 6

/-- Every accepted command completes, unless reset intervenes, once its finite latency has run out
(60_exceptions.md R322, 70_reset_and_hazards.md R364). The latency in steps is the model's (log 3). -/
def Obligations.AcceptedCommandCompletes : Prop :=
  ∀ s : State, s.status.busy = true → BusEvent.reset ∉ s.pending.take s.wait →
    ∃ t : State, Sys2Proof.core.run (s.wait + 1) s = .next t ∧
      t.status.busy = false ∧ t.status.done = true ∧ t.cmd = s.cmd

/-! ### The host bus (20_memory.md) -/

/-- A misaligned transaction completes with BUSERR, changes no state, and a read returns 0 (20_memory.md R85). -/
def Obligations.MisalignedGetsBusErr : Prop :=
  ∀ (s : State) (a : BitVec 16) (rest : List BusEvent), ¬ completes s → a.toNat % 4 ≠ 0 →
    (s.pending = .read a :: rest →
      step s = .next { waited s with pending := rest, resp := some ⟨.buserr, some 0⟩ }) ∧
    ∀ (d : HWord) (strb : BitVec 4), s.pending = .write a d strb :: rest →
      step s = .next { waited s with pending := rest, resp := some ⟨.buserr, none⟩ }

/-- While BUSY = 1 every host write is ignored: an aligned one answers OKAY and sets WIGN, a misaligned one answers
BUSERR and sets nothing (70_reset_and_hazards.md R360). That the write sets WIGN whatever its strobes, none included,
is the model's reading of "every host write" (log 9); the step that is left before completion is the model's own count
(log 3). -/
def Obligations.BusyWritesAreIgnored : Prop :=
  ∀ (s : State) (a : BitVec 16) (d : HWord) (strb : BitVec 4) (rest : List BusEvent), ¬ completes s →
    s.status.busy = true → s.pending = .write a d strb :: rest →
    step s = .next (if a.toNat % 4 = 0 then
        { waited s with
          pending := rest
          status := { s.status with writeIgnored := true }
          resp := some ⟨.okay, none⟩ }
      else { waited s with pending := rest, resp := some ⟨.buserr, none⟩ })

/-- While BUSY = 1 an aligned read of STATUS, CMD, CTRL, LEN, XLEN, ROUTE_NODE, PARAM, NODE, EDGE, MSG_IN, an operand
register or a reserved offset answers its current value (20_memory.md R86, R88). -/
def Obligations.BusyReadsOfInputs : Prop :=
  ∀ (s : State) (a : BitVec 16) (rest : List BusEvent), ¬ completes s → s.status.busy = true →
    s.pending = .read a :: rest → a.toNat % 4 = 0 → isResult (locOf s.cfg a.toNat) = false →
    step s = .next { waited s with
      pending := rest, resp := some ⟨.okay, some (readLoc s (locOf s.cfg a.toNat))⟩ }

/-- The bits of the words VALID0, VALID1, STATUS and PARAM (10_state.md R35, R39, R50): each validity bit at its
place, the five flags below bit 5 and 0 above, and the parameters. -/
def Obligations.StatusWordLayouts : Prop :=
  ∀ s : State,
    (∀ k, k < 16 → (readLoc s .valid0).getLsbD k = operandMask s .key k ∧
      (readLoc s .valid0).getLsbD (16 + k) = operandMask s .state k ∧
      (readLoc s .valid1).getLsbD k = operandMask s .iv k) ∧
    (∀ k, k < 8 → (readLoc s .valid1).getLsbD (16 + k) = operandMask s .nonce k ∧
      (readLoc s .valid1).getLsbD (24 + k) = operandMask s .ctr0 k) ∧
    (readLoc s .status).getLsbD 0 = s.status.busy ∧ (readLoc s .status).getLsbD 1 = s.status.done ∧
    (readLoc s .status).getLsbD 2 = s.status.err ∧ (readLoc s .status).getLsbD 3 = s.status.errSticky ∧
    (readLoc s .status).getLsbD 4 = s.status.writeIgnored ∧
    (∀ k, 5 ≤ k → (readLoc s .status).getLsbD k = false) ∧
    (s.cfg.legal → ((readLoc s .param).extractLsb' 0 8).toNat = s.cfg.nNodes ∧
      ((readLoc s .param).extractLsb' 8 8).toNat + 1 = s.cfg.nEdges ∧
      16 * ((readLoc s .param).extractLsb' 16 16).toNat = s.cfg.msgbufBytes)

/-- Host reads have no side effects, and while idle a repeated read gives the same value (20_memory.md R90,
R93). What is left free is the model's counter of free values, which only a result read while busy advances
(R88, log 7). -/
def Obligations.ReadsHaveNoSideEffects : Prop :=
  ∀ (s : State) (a : BitVec 16) (rest : List BusEvent), ¬ completes s → s.pending = .read a :: rest →
    ∃ (r : BusResp) (d : Nat),
      step s = .next { waited s with pending := rest, resp := some r, draws := d } ∧
      (s.status.busy = false → d = s.draws ∧
        ∀ rest', rest = .read a :: rest' →
          Sys2Proof.core.run 2 s = .next { s with pending := rest', resp := some r })

/-- Every location of the address map, read while idle (20_memory.md R82, R84): what the word of each control and
status register, NODE and EDGE entry holds, and that the word at `B + 4i` of a block register holds its bytes
`4i .. 4i+3`, most significant first; the same for 8-byte registers, the KSD words and the buffers. STATUS, VALID0,
VALID1 and PARAM read as StatusWordLayouts says. -/
def Obligations.ReadsPackBytesBigEndian : Prop :=
  ∀ (s : State) (a : BitVec 16) (rest : List BusEvent), s.cfg.legal → s.status.busy = false →
    s.pending = .read a :: rest → a.toNat % 4 = 0 →
    ∃ v : HWord, step s = .next { s with pending := rest, resp := some ⟨.okay, some v⟩ } ∧
      v = readLoc s (locOf s.cfg a.toNat) ∧
      (a.toNat = 0x0000 → v = s.cmd) ∧
      (a.toNat = 0x0004 → v = s.ctrl.zeroExtend 32) ∧
      (a.toNat = 0x0008 → v = readLoc s .status) ∧
      (a.toNat = 0x000C → v = s.errcode.zeroExtend 32) ∧
      (a.toNat = 0x0010 → v = s.len.zeroExtend 32) ∧
      (a.toNat = 0x0014 → v = s.outLen.zeroExtend 32) ∧
      (a.toNat = 0x0018 → v = s.xlen.zeroExtend 32) ∧
      (a.toNat = 0x001C → v = s.gfRes.zeroExtend 32) ∧
      (a.toNat = 0x0020 → v = readLoc s .valid0) ∧
      (a.toNat = 0x0024 → v = readLoc s .valid1) ∧
      (a.toNat = 0x0028 → v = s.routeNode.zeroExtend 32) ∧
      (a.toNat = 0x002C → v = s.routeRes0) ∧
      (a.toNat = 0x0030 → v = s.routeRes1.zeroExtend 32) ∧
      (a.toNat = 0x0034 → v = readLoc s .param) ∧
      (∀ n : Nat, n < s.cfg.nNodes → a.toNat = 0x0800 + 4 * n → v = nodeEntry s n) ∧
      (∀ j : Nat, j < s.cfg.nEdges → a.toNat = 0x0C00 + 4 * j → v = edgeEntry s j) ∧
      ∀ i k : Nat, i < 4 → k < 4 →
        (∀ x : OpReg, 4 * i < operandSize x → a.toNat = operandBase x + 4 * i →
          lane v k = operandByte s x (4 * i + k)) ∧
        (a.toNat = 0x0140 + 4 * i → lane v k = blockByte s.chain (4 * i + k)) ∧
        (i < 2 → a.toNat = 0x0150 + 4 * i → lane v k = wordByte (halfWord s.ctrcur i) k) ∧
        (∀ r : Fin 11, a.toNat = 0x0200 + 16 * r.val + 4 * i → lane v k = blockByte s.rk[r] (4 * i + k)) ∧
        (a.toNat = 0x0300 + 4 * i → lane v k = blockByte s.tr.input (4 * i + k)) ∧
        (a.toNat = 0x0310 + 4 * i → lane v k = blockByte s.tr.ark (4 * i + k)) ∧
        (a.toNat = 0x0320 + 4 * i → lane v k = blockByte s.tr.sb (4 * i + k)) ∧
        (a.toNat = 0x0330 + 4 * i → lane v k = blockByte s.tr.sr (4 * i + k)) ∧
        (a.toNat = 0x0340 + 4 * i → lane v k = blockByte s.tr.last (4 * i + k)) ∧
        (a.toNat = 0x0400 + 4 * i → lane v k = blockByte s.ksd.source (4 * i + k)) ∧
        (a.toNat = 0x0410 → lane v k = wordByte s.ksd.rot k) ∧
        (a.toNat = 0x0414 → lane v k = wordByte s.ksd.sub k) ∧
        (a.toNat = 0x0418 → lane v k = wordByte s.ksd.rcon k) ∧
        (a.toNat = 0x041C → lane v k = wordByte s.ksd.t k) ∧
        (a.toNat = 0x0420 + 4 * i → lane v k = blockByte s.ksd.derived (4 * i + k)) ∧
        (∀ o : Nat, o < s.cfg.msgbufBytes → a.toNat = 0x4000 + o → lane v k = inByte s (o + k)) ∧
        (∀ o : Nat, o < s.cfg.msgbufBytes + 16 → a.toNat = 0x8000 + o → lane v k = outByte s (o + k))

/-- Writing an operand register while idle, and the validity masks (10_state.md R36): the enabled bytes are
stored and their mask bits set, and nothing else changes; a mask bit falls only by reset or by CLEAR; no command
but CLEAR changes a mask bit. -/
def Obligations.OperandWritesAndMasks : Prop :=
  (∀ (s : State) (x : OpReg) (i : Nat) (a : BitVec 16) (d : HWord) (strb : BitVec 4) (rest : List BusEvent),
    s.status.busy = false → 4 * i < operandSize x → a.toNat = operandBase x + 4 * i →
    s.pending = .write a d strb :: rest →
    ∃ t : State, step s = .next t ∧
      t = { s with
        pending := rest, resp := some ⟨.okay, none⟩
        key := t.key, state := t.state, iv := t.iv, nonce := t.nonce, ctr0 := t.ctr0
        keyM := t.keyM, stateM := t.stateM, ivM := t.ivM, nonceM := t.nonceM, ctr0M := t.ctr0M } ∧
      ∀ (y : OpReg) (k : Nat), k < operandSize y →
        (operandByte t y k =
          if y = x ∧ k / 4 = i ∧ strb.getLsbD (k % 4) = true then lane d (k % 4) else operandByte s y k) ∧
        (operandMask t y k = true ↔
          operandMask s y k = true ∨ (y = x ∧ k / 4 = i ∧ strb.getLsbD (k % 4) = true))) ∧
  (∀ (s t : State) (x : OpReg) (k : Nat), operandMask s x k = true → step s = .next t →
    operandMask t x k = false →
    (completes s ∧ decode s.cmd = .ok .clear) ∨ (¬ completes s ∧ ∃ rest, s.pending = .reset :: rest)) ∧
  ∀ (i : Instr) (s t : State) (x : OpReg) (k : Nat), i ≠ .clear → exec i s = .next t →
    operandMask t x k = operandMask s x k

/-- An aligned write to a reserved offset or a read-only location, while idle, is ignored with OKAY; an aligned
read of a reserved offset returns 0 with OKAY (20_memory.md R86). The reserved offsets and the locations a read of
which is UNSPECIFIED while busy, the read-only ones but PARAM, are those of the address map (R84, R86, R88). -/
def Obligations.ReservedAndReadOnlyLocations : Prop :=
  (∀ (s : State) (a : BitVec 16) (rest : List BusEvent), s.status.busy = false → a.toNat % 4 = 0 →
    ((locOf s.cfg a.toNat = .reserved ∨ isResult (locOf s.cfg a.toNat) = true ∨
        locOf s.cfg a.toNat = .param) →
      ∀ (d : HWord) (strb : BitVec 4), s.pending = .write a d strb :: rest →
        step s = .next { s with pending := rest, resp := some ⟨.okay, none⟩ }) ∧
    (locOf s.cfg a.toNat = .reserved → s.pending = .read a :: rest →
      step s = .next { s with pending := rest, resp := some ⟨.okay, some 0⟩ })) ∧
  ∀ (p : Params) (a : Nat), p.legal → a % 4 = 0 → a < 0x10000 →
    (locOf p a = .reserved ↔
      (0x0038 ≤ a ∧ a < 0x0100) ∨ (0x0158 ≤ a ∧ a < 0x0200) ∨ (0x02B0 ≤ a ∧ a < 0x0300) ∨
        (0x0350 ≤ a ∧ a < 0x0400) ∨ (0x0430 ≤ a ∧ a < 0x0800) ∨
        (0x0800 + 4 * p.nNodes ≤ a ∧ a < 0x0C00) ∨ (0x0C00 + 4 * p.nEdges ≤ a ∧ a < 0x4000) ∨
        (0x4000 + p.msgbufBytes ≤ a ∧ a < 0x8000) ∨ 0x8000 + p.msgbufBytes + 16 ≤ a) ∧
    (isResult (locOf p a) = true ↔
      a ∈ [0x000C, 0x0014, 0x001C, 0x0020, 0x0024, 0x002C, 0x0030] ∨ (0x0140 ≤ a ∧ a < 0x0158) ∨
        (0x0200 ≤ a ∧ a < 0x02B0) ∨ (0x0300 ≤ a ∧ a < 0x0350) ∨ (0x0400 ≤ a ∧ a < 0x0430) ∨
        (0x8000 ≤ a ∧ a < 0x8000 + p.msgbufBytes + 16)) ∧
    (locOf p a = .param ↔ a = 0x0034)

/-- A write of STATUS while idle clears ERRSTKY and WIGN where bit 3 or 4 is written 1, and changes nothing else
(10_state.md R39). That a write whose strobes leave the lowest lane disabled clears neither is the model's reading
(log 9). -/
def Obligations.StatusWriteClearsStickyBits : Prop :=
  ∀ (s : State) (d : HWord) (strb : BitVec 4) (rest : List BusEvent), s.status.busy = false →
    s.pending = .write 0x0008 d strb :: rest →
    ∃ t : State, step s = .next t ∧
      t = { s with pending := rest, resp := some ⟨.okay, none⟩, status := t.status } ∧
      t.status.busy = false ∧ t.status.done = s.status.done ∧ t.status.err = s.status.err ∧
      (t.status.errSticky = true ↔
        s.status.errSticky = true ∧ ¬ (strb.getLsbD 3 = true ∧ d.getLsbD 3 = true)) ∧
      (t.status.writeIgnored = true ↔
        s.status.writeIgnored = true ∧ ¬ (strb.getLsbD 3 = true ∧ d.getLsbD 4 = true))

/-- A write of CTRL, LEN, XLEN or ROUTE_NODE while idle, with any strobes, stores the defined bits of the enabled
lanes as written, reserved values of MODE and CIPHER included, keeps the disabled lanes, and drops the reserved bits,
which read 0 (10_state.md R37, R38, R41, R43, R49; 20_memory.md R83). -/
def Obligations.ControlWritesKeepDefinedBits : Prop :=
  ∀ (s : State) (d : HWord) (strb : BitVec 4) (rest : List BusEvent), s.status.busy = false →
    (s.pending = .write 0x0004 d strb :: rest → ∃ t : State, step s = .next t ∧
      t = { s with pending := rest, resp := some ⟨.okay, none⟩, ctrl := t.ctrl } ∧
      ∀ k, k < 4 → lane (readLoc t .ctrl) k =
        if strb.getLsbD k then lane (d &&& 0x000000FF) k else lane (readLoc s .ctrl) k) ∧
    (s.pending = .write 0x0010 d strb :: rest → ∃ t : State, step s = .next t ∧
      t = { s with pending := rest, resp := some ⟨.okay, none⟩, len := t.len } ∧
      ∀ k, k < 4 → lane (readLoc t .len) k =
        if strb.getLsbD k then lane (d &&& 0x0000FFFF) k else lane (readLoc s .len) k) ∧
    (s.pending = .write 0x0018 d strb :: rest → ∃ t : State, step s = .next t ∧
      t = { s with pending := rest, resp := some ⟨.okay, none⟩, xlen := t.xlen } ∧
      ∀ k, k < 4 → lane (readLoc t .xlen) k =
        if strb.getLsbD k then lane (d &&& 0x0000FFFF) k else lane (readLoc s .xlen) k) ∧
    (s.pending = .write 0x0028 d strb :: rest → ∃ t : State, step s = .next t ∧
      t = { s with pending := rest, resp := some ⟨.okay, none⟩, routeNode := t.routeNode } ∧
      ∀ k, k < 4 → lane (readLoc t .routeNode) k =
        if strb.getLsbD k then lane (d &&& 0x000000FF) k else lane (readLoc s .routeNode) k)

/-- A write of a NODE or EDGE entry while idle, with any strobes, stores the enabled lanes as written, reserved bits
too, keeps the disabled ones, and leaves every other entry (10_state.md R52, R53; 20_memory.md R83, R84). -/
def Obligations.TableWritesStoreTheEntry : Prop :=
  ∀ (s : State) (a : BitVec 16) (d : HWord) (strb : BitVec 4) (rest : List BusEvent) (i : Nat), s.cfg.legal →
    s.status.busy = false → s.pending = .write a d strb :: rest →
    (i < s.cfg.nNodes → a.toNat = 0x0800 + 4 * i → ∃ t : State, step s = .next t ∧
      t = { s with pending := rest, resp := some ⟨.okay, none⟩, nodes := t.nodes } ∧
      ∀ n k, k < 4 → lane (nodeEntry t n) k =
        if n = i ∧ strb.getLsbD k = true then lane d k else lane (nodeEntry s n) k) ∧
    (i < s.cfg.nEdges → a.toNat = 0x0C00 + 4 * i → ∃ t : State, step s = .next t ∧
      t = { s with pending := rest, resp := some ⟨.okay, none⟩, edges := t.edges } ∧
      ∀ j k, k < 4 → lane (edgeEntry t j) k =
        if j = i ∧ strb.getLsbD k = true then lane d k else lane (edgeEntry s j) k)

/-- A write of a word of MSG_IN while idle stores the enabled bytes and leaves every other byte of both buffers
(20_memory.md R82, R83, R84). -/
def Obligations.MsgInWritesStoreEnabledBytes : Prop :=
  ∀ (s : State) (a : BitVec 16) (d : HWord) (strb : BitVec 4) (rest : List BusEvent) (o : Nat), s.cfg.legal →
    s.status.busy = false → s.pending = .write a d strb :: rest → o % 4 = 0 → o < s.cfg.msgbufBytes →
    a.toNat = 0x4000 + o →
    ∃ t : State, step s = .next t ∧
      t = { s with pending := rest, resp := some ⟨.okay, none⟩, mem := t.mem } ∧
      (∀ x, inByte t x =
        if o ≤ x ∧ x < o + 4 ∧ strb.getLsbD (x - o) = true then lane d (x - o) else inByte s x) ∧
      ∀ x, outByte t x = outByte s x

/-! ### Reset (70_reset_and_hazards.md) -/

/-- Reset, also while a command is in flight, gives every piece of state with a defined reset value that value;
no command is in flight, DONE is 0 and the parameters stay (70_reset_and_hazards.md R350, R351, R352). Nothing
is said of the UNSPECIFIED ones, whose bytes are the model's free values (log 6). -/
def Obligations.ResetGivesDefinedValues : Prop :=
  ∀ (s : State) (rest : List BusEvent), ¬ completes s → s.pending = .reset :: rest →
    ∃ t : State, step s = .next t ∧
      readLoc t .cmd = 0 ∧ readLoc t .ctrl = 0x20 ∧ readLoc t .status = 0 ∧ readLoc t .errcode = 0 ∧
      readLoc t .len = 0 ∧ readLoc t .outLen = 0 ∧ readLoc t .xlen = 0 ∧ readLoc t .valid0 = 0 ∧
      readLoc t .valid1 = 0 ∧ readLoc t .routeNode = 0 ∧ readLoc t .param = readLoc s .param ∧
      (∀ n, readLoc t (.node n) = 0) ∧ (∀ j, readLoc t (.edge j) = 0) ∧
      t.status.busy = false ∧ t.cfg = s.cfg ∧ t.pending = rest

/-- The invariant holds right after power-on reset. -/
def Obligations.InvAtReset : Prop := MachineInv State.reset

/-- Every step keeps the invariant: legal parameters, STATUS in agreement with ERRCODE, a canonical memory that
holds the two buffers only, OUT_LEN over written bytes only, canonical tables (60_exceptions.md R321 to R323,
R333; 10_state.md R42, R54; 20_memory.md R87). -/
def Obligations.StepKeepsInv : Prop :=
  ∀ s t : State, MachineInv s → step s = .next t → MachineInv t

/-! ### What no command does -/

/-- No command writes KEY, IV, NONCE, CTR0, CTRL, XLEN, ROUTE_NODE, NODE, EDGE, CMD, WIGN (but for CLEAR), LEN (but
for XFER) or any byte of MSG_IN (but for XFER) (10_state.md R33, R34, R37, R39, R41, R51, R54; 30_encoding.md R113;
47_router.md R290). -/
def Obligations.CommandsNeverWriteTheirInputs : Prop :=
  ∀ (i : Instr) (s t : State), exec i s = .next t →
    t.key = s.key ∧ t.iv = s.iv ∧ t.nonce = s.nonce ∧ t.ctr0 = s.ctr0 ∧ t.ctrl = s.ctrl ∧
      t.xlen = s.xlen ∧ t.routeNode = s.routeNode ∧ t.nodes = s.nodes ∧ t.edges = s.edges ∧
      t.cmd = s.cmd ∧ t.cfg = s.cfg ∧ t.pending = s.pending ∧ t.resp = s.resp ∧
      (i ≠ .clear → t.status.writeIgnored = s.status.writeIgnored) ∧
      (i ≠ .xfer → t.len = s.len ∧ ∀ a, a < 0x4000 → inByte t a = inByte s a)

/-- The RK snapshot is not a cache: replacing it before a command changes nothing after it, but RK itself where
the command does not write it (10_state.md R45, 43_key_schedule.md R182, 20_memory.md R97). -/
def Obligations.RkIsNeverRead : Prop :=
  ∀ (i : Instr) (s t : State) (r : Vector Block 11), exec i s = .next t →
    (t.rk = s.rk ∧ exec i { s with rk := r } = .next { t with rk := r }) ∨
      (t.rk = expandKey s.key ∧ exec i { s with rk := r } = .next t)

/-- The refused values of CTRL (30_encoding.md R121): CIPHER 2 and 3 for the mode commands and RUN, MODE 3 for
ROUTE and RUN: the command completes with IllegalCommand and writes no result. -/
def Obligations.RefusedControlValues : Prop :=
  ∀ s : State,
    (2 ≤ (s.ctrl.extractLsb' 3 2).toNat →
      ∀ i ∈ [Instr.ecbenc, .ecbdec, .cbcenc, .cbcenct, .cbcdec, .ctrx, .run],
        exec i s = .next (failed s .illegalCommand)) ∧
    ((s.ctrl.extractLsb' 0 2).toNat = 3 →
      ∀ i ∈ [Instr.route, .run], exec i s = .next (failed s .illegalCommand))

/-- The operand check `need(X)` through the commands that read X (60_exceptions.md R327), with every round index
30_encoding.md R113 admits, in the order KEY, STATE, IV, NONCE, CTR0 (R326): a mask of 0 raises MissingInput, a partial
one InvalidBlockLength for KEY and STATE and InvalidKeyMaterial for the others. -/
def Obligations.OperandChecks : Prop :=
  ∀ s : State,
    (∀ i : Instr, i ∈ [Instr.expand, .encb, .decb, .xordemo] ∨
        (∃ r : BitVec 4, (1 ≤ r.toNat ∧ r.toNat ≤ 10 ∧ i = .kstep r) ∨ (r.toNat ≤ 10 ∧ i = .ark r) ∨
          (r.toNat ≤ 9 ∧ i = .trace r)) →
      (s.keyM = 0 → exec i s = .next (failed s .missingInput)) ∧
      (s.keyM ≠ 0 → ¬ operandFull s .key → exec i s = .next (failed s .invalidBlockLength))) ∧
    (∀ i ∈ [Instr.subb, .shrow, .mixcol, .invsubb, .invshrow, .invmixcol],
      (s.stateM = 0 → exec i s = .next (failed s .missingInput)) ∧
      (s.stateM ≠ 0 → ¬ operandFull s .state → exec i s = .next (failed s .invalidBlockLength))) ∧
    (operandFull s .key → ∀ i : Instr, i ∈ [Instr.encb, .decb, .xordemo] ∨
        (∃ r : BitVec 4, (r.toNat ≤ 10 ∧ i = .ark r) ∨ (r.toNat ≤ 9 ∧ i = .trace r)) →
      (s.stateM = 0 → exec i s = .next (failed s .missingInput)) ∧
      (s.stateM ≠ 0 → ¬ operandFull s .state → exec i s = .next (failed s .invalidBlockLength))) ∧
    ((ctrlCipher s).isSome = true → ∀ i ∈ [Instr.ecbenc, .ecbdec, .cbcenc, .cbcenct, .cbcdec, .ctrx],
      (s.keyM = 0 → exec i s = .next (failed s .missingInput)) ∧
      (s.keyM ≠ 0 → ¬ operandFull s .key → exec i s = .next (failed s .invalidBlockLength))) ∧
    ((ctrlCipher s).isSome = true → operandFull s .key → ∀ i ∈ [Instr.cbcenc, .cbcenct, .cbcdec],
      (s.ivM = 0 → exec i s = .next (failed s .missingInput)) ∧
      (s.ivM ≠ 0 → ¬ operandFull s .iv → exec i s = .next (failed s .invalidKeyMaterial))) ∧
    ((ctrlCipher s).isSome = true → operandFull s .key →
      (s.nonceM = 0 → exec .ctrx s = .next (failed s .missingInput)) ∧
      (s.nonceM ≠ 0 → ¬ operandFull s .nonce → exec .ctrx s = .next (failed s .invalidKeyMaterial)) ∧
      (operandFull s .nonce →
        (s.ctr0M = 0 → exec .ctrx s = .next (failed s .missingInput)) ∧
        (s.ctr0M ≠ 0 → ¬ operandFull s .ctr0 → exec .ctrx s = .next (failed s .invalidKeyMaterial))))

/-! ### Control commands and the GF(2^8) unit -/

/-- NOP does nothing but complete (40_control.md R140). -/
def Obligations.NopOnlyCompletes : Prop :=
  ∀ s : State, exec .nop s = .next { s with status := statusDone s.status }

/-- CLEAR clears every mask bit, OUT_LEN, ERRSTKY and WIGN, and leaves everything else (40_control.md R141). -/
def Obligations.ClearInvalidatesOperands : Prop :=
  ∀ s : State, ∃ t : State, exec .clear s = .next t ∧
    (∀ x k, operandMask t x k = false) ∧ readLoc t .valid0 = 0 ∧ readLoc t .valid1 = 0 ∧
    t = { s with
      keyM := t.keyM, stateM := t.stateM, ivM := t.ivM, nonceM := t.nonceM, ctr0M := t.ctr0M
      outLen := 0
      status := { s.status with errSticky := false, writeIgnored := false, busy := false, done := true } }

/-- XFER copies OUT_LEN bytes of MSG_OUT to MSG_IN and sets LEN to it, or raises InvalidBlockLength when OUT_LEN is
over MSGBUF_BYTES (40_control.md R142); every other byte of both buffers stays. -/
def Obligations.XferCopiesTheOutput : Prop :=
  ∀ s : State, s.cfg.legal →
    (s.outLen.toNat ≤ s.cfg.msgbufBytes →
      ∃ t : State, exec .xfer s = .next t ∧
        t = { s with mem := t.mem, len := s.outLen, status := statusDone s.status } ∧
        (∀ a, inByte t a = if a < s.outLen.toNat then outByte s a else inByte s a) ∧
        ∀ a, outByte t a = outByte s a) ∧
    (s.cfg.msgbufBytes < s.outLen.toNat → exec .xfer s = .next (failed s .invalidBlockLength))

/-- XTIME writes the product by 0x02 reduced by 0x11B to GF_RES and nothing else (42_gf_multiplier.md R160, R163). -/
def Obligations.XtimeDoubles : Prop :=
  ∀ (a : Byte) (s : State), exec (.xtime a) s = .next { s with
    gfRes := (((a.zeroExtend 9) <<< 1) ^^^ (if a.getLsbD 7 then (0x11B : BitVec 9) else 0)).extractLsb' 0 8
    status := statusDone s.status }

/-- GMUL writes the product of the polynomials of `a` and `b` reduced by 0x11B to GF_RES, the sum of the
`a · x^i` over the set bits `i` of `b`, and nothing else (42_gf_multiplier.md R161, R164). -/
def Obligations.GmulMultiplies : Prop :=
  ∀ (a b : Byte) (s : State), exec (.gmul a b) s = .next { s with
    gfRes := (List.range 8).foldl (fun p i => p ^^^ (if b.getLsbD i then xtime^[i] a else 0)) 0
    status := statusDone s.status }

/-- The laws of the field (42_gf_multiplier.md R162). -/
def Obligations.GmulFieldLaws : Prop :=
  ∀ a b c : Byte,
    a ^^^ a = 0 ∧ gmul a b = gmul b a ∧ gmul (gmul a b) c = gmul a (gmul b c) ∧
      gmul a (b ^^^ c) = gmul a b ^^^ gmul a c ∧ gmul 0 a = 0 ∧ gmul 1 a = a ∧
      (a ≠ 0 → ∃! d : Byte, gmul a d = 1)

/-! ### Key schedule -/

/-- EXPAND writes the eleven round keys: RK[0] is KEY and each next one follows from the one before by the word
equations of 43_key_schedule.md R181, with the round constants of R180; nothing else changes (R184). -/
def Obligations.ExpandDerivesTheSchedule : Prop :=
  ∀ s : State, operandFull s .key →
    ∃ t : State, exec .expand s = .next t ∧
      t = { s with rk := t.rk, status := statusDone s.status } ∧ t.rk[0] = s.key ∧
      ∀ r : Fin 10,
        (t.rk[r.val + 1]).c0 = ((t.rk[r.val]).c0.xor (subWord (rotWord (t.rk[r.val]).c3))).xor
          ⟨[(0x01 : Byte), 0x02, 0x04, 0x08, 0x10, 0x20, 0x40, 0x80, 0x1B, 0x36][r.val], 0, 0, 0⟩ ∧
        (t.rk[r.val + 1]).c1 = (t.rk[r.val]).c1.xor (t.rk[r.val + 1]).c0 ∧
        (t.rk[r.val + 1]).c2 = (t.rk[r.val]).c2.xor (t.rk[r.val + 1]).c1 ∧
        (t.rk[r.val + 1]).c3 = (t.rk[r.val]).c3.xor (t.rk[r.val + 1]).c2

/-- KSTEP r, for r in 1..10, shows the derivation of RK[r] from RK[r-1] in the KSD registers and writes RK as EXPAND
does; for any other r it raises IllegalCommand (43_key_schedule.md R183). -/
def Obligations.KstepShowsTheDerivation : Prop :=
  ∀ (r : BitVec 4) (s : State),
    (operandFull s .key → ∀ (h1 : 1 ≤ r.toNat) (h2 : r.toNat ≤ 10),
      ∃ t : State, exec (.kstep r) s = .next t ∧
        t = { s with rk := expandKey s.key, ksd := t.ksd, status := statusDone s.status } ∧
        t.ksd.source = (expandKey s.key)[r.toNat - 1] ∧
        t.ksd.derived = (expandKey s.key)[r.toNat] ∧
        t.ksd.rot = rotWord t.ksd.source.c3 ∧ t.ksd.sub = subWord t.ksd.rot ∧
        t.ksd.rcon.w1 = 0 ∧ t.ksd.rcon.w2 = 0 ∧ t.ksd.rcon.w3 = 0 ∧
        t.ksd.rcon.w0 = xtime^[r.toNat - 1] 0x01 ∧ t.ksd.t = t.ksd.sub.xor t.ksd.rcon ∧
        t.ksd.derived.c0 = t.ksd.source.c0.xor t.ksd.t) ∧
    (r.toNat = 0 ∨ 10 < r.toNat → exec (.kstep r) s = .next (failed s .illegalCommand))

/-! ### Round engine -/

/-- ARK r, for r in 0..10, XORs round key r into STATE byte by byte and writes RK; twice the same r restores STATE;
for r over 10 it raises IllegalCommand (44_round_primitives.md R210). -/
def Obligations.ArkAddsTheRoundKey : Prop :=
  ∀ (r : BitVec 4) (s : State),
    (operandFull s .key → operandFull s .state → ∀ h : r.toNat ≤ 10,
      ∃ t : State, exec (.ark r) s = .next t ∧
        t = { s with rk := expandKey s.key, state := t.state, status := statusDone s.status } ∧
        (∀ k, k < 16 →
          blockByte t.state k = blockByte s.state k ^^^ blockByte ((expandKey s.key)[r.toNat]) k) ∧
        ∃ u : State, exec (.ark r) t = .next u ∧ u.state = s.state) ∧
    (10 < r.toNat → exec (.ark r) s = .next (failed s .illegalCommand))

/-- SUBB and INVSUBB substitute every byte of STATE by the S-box and by its inverse and change nothing else, and
each undoes the other (44_round_primitives.md R202, R205, R206, R211, R214). -/
def Obligations.SubbAndInvsubb : Prop :=
  ∀ s : State, operandFull s .state →
    (∃ t u : State, exec .subb s = .next t ∧
      t = { s with state := t.state, status := statusDone s.status } ∧
      (∀ k, k < 16 → blockByte t.state k = sbox (blockByte s.state k)) ∧
      exec .invsubb t = .next u ∧ u.state = s.state) ∧
    ∃ t u : State, exec .invsubb s = .next t ∧
      t = { s with state := t.state, status := statusDone s.status } ∧
      (∀ k, k < 16 → blockByte t.state k = invSbox (blockByte s.state k)) ∧
      exec .subb t = .next u ∧ u.state = s.state

/-- SHROW rotates row r of the State Grid left by r, INVSHROW right by r, and nothing else changes
(44_round_primitives.md R203, R207, R212, R215); INVSHROW equals SHROW three times. -/
def Obligations.ShrowAndInvshrow : Prop :=
  ∀ s : State, operandFull s .state →
    (∃ t : State, exec .shrow s = .next t ∧
      t = { s with state := t.state, status := statusDone s.status } ∧
      ∀ r c, r < 4 → c < 4 →
        blockByte t.state (r + 4 * c) = blockByte s.state (r + 4 * ((c + r) % 4))) ∧
    ∃ t : State, exec .invshrow s = .next t ∧
      t = { s with state := t.state, status := statusDone s.status } ∧
      (∀ r c, r < 4 → c < 4 →
        blockByte t.state (r + 4 * c) = blockByte s.state (r + 4 * ((c + 4 - r) % 4))) ∧
      execAll [.shrow, .shrow, .shrow] s = some t

/-- MIXCOL and INVMIXCOL multiply every column of STATE by their matrices over GF(2^8) and change nothing else,
each undoes the other, and MIXCOL is linear (44_round_primitives.md R204, R208, R213, R216). -/
def Obligations.MixcolAndInvmixcol : Prop :=
  (∀ s : State, operandFull s .state →
    (∃ t u : State, exec .mixcol s = .next t ∧
      t = { s with state := t.state, status := statusDone s.status } ∧
      (∀ c i, c < 4 → i < 4 →
        blockByte t.state (i + 4 * c) =
          gmul 2 (blockByte s.state (i + 4 * c)) ^^^ gmul 3 (blockByte s.state ((i + 1) % 4 + 4 * c)) ^^^
            blockByte s.state ((i + 2) % 4 + 4 * c) ^^^ blockByte s.state ((i + 3) % 4 + 4 * c)) ∧
      exec .invmixcol t = .next u ∧ u.state = s.state) ∧
    ∃ t u : State, exec .invmixcol s = .next t ∧
      t = { s with state := t.state, status := statusDone s.status } ∧
      (∀ c i, c < 4 → i < 4 →
        blockByte t.state (i + 4 * c) =
          gmul 0x0E (blockByte s.state (i + 4 * c)) ^^^
            gmul 0x0B (blockByte s.state ((i + 1) % 4 + 4 * c)) ^^^
            gmul 0x0D (blockByte s.state ((i + 2) % 4 + 4 * c)) ^^^
            gmul 0x09 (blockByte s.state ((i + 3) % 4 + 4 * c))) ∧
      exec .mixcol t = .next u ∧ u.state = s.state) ∧
  ∀ x y : Block, mixColumns (x.xor y) = (mixColumns x).xor (mixColumns y)

/-! ### Block cipher -/

/-- ENCB writes E_aes(STATE, KEY) to STATE, DECB writes D_aes(STATE, KEY), each with the RK snapshot and nothing
else, whatever CTRL holds (45_block_cipher.md R233, R234). -/
def Obligations.EncbAndDecbResults : Prop :=
  ∀ s : State, operandFull s .key → operandFull s .state →
    exec .encb s = .next { s with
      state := aesEncrypt s.state s.key, rk := expandKey s.key, status := statusDone s.status } ∧
    exec .decb s = .next { s with
      state := aesDecrypt s.state s.key, rk := expandKey s.key, status := statusDone s.status }

/-- ENCB leaves the state that the forty single-step commands of 45_block_cipher.md R230 leave: ARK 0, nine times
SUBB, SHROW, MIXCOL and ARK r, then SUBB, SHROW and ARK 10. -/
def Obligations.EncbEqualsSingleSteps : Prop :=
  ∀ s : State, operandFull s .key → operandFull s .state →
    ∃ t : State, exec .encb s = .next t ∧ execAll encryptCommands s = some t

/-- DECB undoes ENCB and ENCB undoes DECB, for every key and every block (45_block_cipher.md R231). -/
def Obligations.DecbInvertsEncb : Prop :=
  ∀ s : State, operandFull s .key → operandFull s .state →
    (∃ t : State, execAll [.encb, .decb] s = some t ∧ t.state = s.state) ∧
    (∃ t : State, execAll [.decb, .encb] s = some t ∧ t.state = s.state) ∧
    ∀ p k : Block, aesDecrypt (aesEncrypt p k) k = p

/-- TRACE r, for r in 0..9, completes with KEY and STATE full: it writes the stages of display round r + 1 and the whole
detail of the derivation of round key r + 1 in the KSD registers, and leaves STATE; the trace agrees with E_aes; for r
over 9 it raises IllegalCommand (45_block_cipher.md R232, 43_key_schedule.md R181). -/
def Obligations.TraceShowsTheRounds : Prop :=
  ∀ (r : BitVec 4) (s : State),
    (operandFull s .key → operandFull s .state → ∀ h : r.toNat ≤ 9,
      ∃ t : State, exec (.trace r) s = .next t ∧
        t = { s with rk := expandKey s.key, tr := t.tr, ksd := t.ksd, status := statusDone s.status } ∧
        (r = 0 → t.tr.input = s.state) ∧
        t.tr.ark = addRoundKey t.tr.input ((expandKey s.key)[r.toNat]) ∧
        t.tr.sb = subBytes t.tr.ark ∧ t.tr.sr = shiftRows t.tr.sb ∧
        (r.toNat ≤ 8 → t.tr.last = mixColumns t.tr.sr ∧
          ∃ u : State, exec (.trace (r + 1)) s = .next u ∧ u.tr.input = t.tr.last) ∧
        (r.toNat = 9 → t.tr.last = aesEncrypt s.state s.key) ∧
        t.ksd.source = (expandKey s.key)[r.toNat] ∧ t.ksd.derived = (expandKey s.key)[r.toNat + 1] ∧
        t.ksd.rot = rotWord t.ksd.source.c3 ∧ t.ksd.sub = subWord t.ksd.rot ∧
        t.ksd.rcon.w1 = 0 ∧ t.ksd.rcon.w2 = 0 ∧ t.ksd.rcon.w3 = 0 ∧
        t.ksd.rcon.w0 = xtime^[r.toNat] 0x01 ∧ t.ksd.t = t.ksd.sub.xor t.ksd.rcon ∧
        t.ksd.derived.c0 = t.ksd.source.c0.xor t.ksd.t) ∧
    (9 < r.toNat → exec (.trace r) s = .next (failed s .illegalCommand))

/-! ### Chaining modes -/

/-- ECBENC encrypts every block of the message, padded by PKCS7 when PAD = 1, on its own, with E_aes when CIPHER is 0
and by XOR with KEY when CIPHER is 1; a message over MSGBUF_BYTES, or with PAD = 0 one that is not whole blocks, raises
InvalidBlockLength (46_modes.md R250, R251, R252, R254). -/
def Obligations.EcbencEncryptsEachBlock : Prop :=
  (∀ s : State, (ctrlCipher s = some .aes ↔ s.ctrl.extractLsb' 3 2 = 0) ∧
    (ctrlCipher s = some .xor ↔ s.ctrl.extractLsb' 3 2 = 1) ∧ ctrlPad s = s.ctrl.getLsbD 5) ∧
  (∀ k x : Block, blockEnc .aes k x = aesEncrypt x k ∧ blockEnc .xor k x = x.xor k) ∧
  ∀ (s : State) (c : Cipher), s.cfg.legal → ctrlCipher s = some c → operandFull s .key →
    (s.cfg.msgbufBytes < s.len.toNat → exec .ecbenc s = .next (failed s .invalidBlockLength)) ∧
    (ctrlPad s = false → s.len.toNat % 16 ≠ 0 → exec .ecbenc s = .next (failed s .invalidBlockLength)) ∧
    (s.len.toNat ≤ s.cfg.msgbufBytes → (ctrlPad s = true ∨ s.len.toNat % 16 = 0) →
      ∃ (p : Nat) (x : List Byte) (t : State), exec .ecbenc s = .next t ∧
        p = (if ctrlPad s then 16 - s.len.toNat % 16 else 0) ∧
        x = readIn s s.len.toNat ++ List.replicate p (BitVec.ofNat 8 p) ∧
        t.outLen.toNat = s.len.toNat + p ∧
        (∀ i, i < t.outLen.toNat / 16 →
          blockAt (output t) i = blockEnc c s.key (blockAt x i)) ∧
        t.chain = s.chain ∧ t.ctrcur = s.ctrcur ∧ modeFrame c s t)

/-- ECBDEC decrypts every block of the message on its own, with D_aes when CIPHER is 0 and by XOR with KEY when CIPHER
is 1; with PAD = 1 the last byte tells how many bytes are stripped, and more than the length raises InvalidBlockLength,
as do a message over MSGBUF_BYTES, one that is not whole blocks, and with PAD = 1 an empty one (46_modes.md R250, R251,
R253, R255). -/
def Obligations.EcbdecDecryptsEachBlock : Prop :=
  (∀ k x : Block, blockDec .aes k x = aesDecrypt x k ∧ blockDec .xor k x = x.xor k) ∧
  ∀ (s : State) (c : Cipher), s.cfg.legal → ctrlCipher s = some c → operandFull s .key →
    (c = .aes ↔ s.ctrl.extractLsb' 3 2 = 0) ∧ (c = .xor ↔ s.ctrl.extractLsb' 3 2 = 1) ∧
    (s.cfg.msgbufBytes < s.len.toNat → exec .ecbdec s = .next (failed s .invalidBlockLength)) ∧
    (s.len.toNat % 16 ≠ 0 → exec .ecbdec s = .next (failed s .invalidBlockLength)) ∧
    (ctrlPad s = true → s.len.toNat = 0 → exec .ecbdec s = .next (failed s .invalidBlockLength)) ∧
    (s.len.toNat ≤ s.cfg.msgbufBytes → s.len.toNat % 16 = 0 → (ctrlPad s = true → s.len.toNat ≠ 0) →
      ∃ (y : List Byte) (p : Nat), y.length = s.len.toNat ∧
        (∀ i, i < s.len.toNat / 16 →
          blockAt y i = blockDec c s.key (blockAt (readIn s s.len.toNat) i)) ∧
        p = (if ctrlPad s then (y.getD (s.len.toNat - 1) 0).toNat else 0) ∧
        (s.len.toNat < p → exec .ecbdec s = .next (failed s .invalidBlockLength)) ∧
        (p ≤ s.len.toNat → ∃ t : State, exec .ecbdec s = .next t ∧
          t.outLen.toNat = s.len.toNat - p ∧ output t = y.take (s.len.toNat - p) ∧
          t.chain = s.chain ∧ t.ctrcur = s.ctrcur ∧ modeFrame c s t))

/-- CBCENC encrypts every block of the message, padded by PKCS7 when PAD = 1, after XOR with the ciphertext block
before it, IV first; CHAIN is the last ciphertext block, or IV; a message over MSGBUF_BYTES, or with PAD = 0 one that is
not whole blocks, raises InvalidBlockLength (46_modes.md R250, R252, R256). -/
def Obligations.CbcencChainsBlocks : Prop :=
  ∀ (s : State) (c : Cipher), s.cfg.legal → ctrlCipher s = some c → operandFull s .key → operandFull s .iv →
    (s.cfg.msgbufBytes < s.len.toNat → exec .cbcenc s = .next (failed s .invalidBlockLength)) ∧
    (ctrlPad s = false → s.len.toNat % 16 ≠ 0 → exec .cbcenc s = .next (failed s .invalidBlockLength)) ∧
    (s.len.toNat ≤ s.cfg.msgbufBytes → (ctrlPad s = true ∨ s.len.toNat % 16 = 0) →
      ∃ (p : Nat) (x : List Byte) (t : State), exec .cbcenc s = .next t ∧
        p = (if ctrlPad s then 16 - s.len.toNat % 16 else 0) ∧
        x = readIn s s.len.toNat ++ List.replicate p (BitVec.ofNat 8 p) ∧
        t.outLen.toNat = s.len.toNat + p ∧
        (∀ i, i < t.outLen.toNat / 16 →
          blockAt (output t) i = blockEnc c s.key
            ((blockAt x i).xor (if i = 0 then s.iv else blockAt (output t) (i - 1)))) ∧
        t.chain = (if t.outLen.toNat = 0 then s.iv else blockAt (output t) (t.outLen.toNat / 16 - 1)) ∧
        t.ctrcur = s.ctrcur ∧ modeFrame c s t)

/-- CBCENCT pads the message to the next block boundary by TRUNC_PAD, chains as CBCENC does, writes the first LEN
bytes, and leaves the whole last block in CHAIN; PAD is ignored; a message over MSGBUF_BYTES raises InvalidBlockLength
(46_modes.md R250, R257). -/
def Obligations.CbcenctTruncates : Prop :=
  ∀ (s : State) (c : Cipher), s.cfg.legal → ctrlCipher s = some c → operandFull s .key → operandFull s .iv →
    (s.cfg.msgbufBytes < s.len.toNat → exec .cbcenct s = .next (failed s .invalidBlockLength)) ∧
    (s.len.toNat ≤ s.cfg.msgbufBytes →
      ∃ (m q : Nat) (x : List Byte) (y : Nat → Block) (t : State), exec .cbcenct s = .next t ∧
        m = (s.len.toNat + 15) / 16 ∧ q = 16 * m - s.len.toNat ∧
        x = readIn s s.len.toNat ++
          List.replicate q (if s.cfg.truncPad = .pkcs7 then BitVec.ofNat 8 q else 0) ∧
        (∀ i, i < m →
          y i = blockEnc c s.key ((blockAt x i).xor (if i = 0 then s.iv else y (i - 1)))) ∧
        t.outLen = s.len ∧
        (∀ j, j < s.len.toNat → outByte t j = blockByte (y (j / 16)) (j % 16)) ∧
        t.chain = (if m = 0 then s.iv else y (m - 1)) ∧ t.ctrcur = s.ctrcur ∧ modeFrame c s t)

/-- CBCDEC decrypts every block and XORs it with the ciphertext block before it, IV first; CHAIN is the last
ciphertext block read, or IV; the strip is as ECBDEC's; a message over MSGBUF_BYTES, one that is not whole blocks, and
with PAD = 1 an empty one raise InvalidBlockLength (46_modes.md R250, R253, R258). -/
def Obligations.CbcdecUnchainsBlocks : Prop :=
  ∀ (s : State) (c : Cipher), s.cfg.legal → ctrlCipher s = some c → operandFull s .key → operandFull s .iv →
    (s.cfg.msgbufBytes < s.len.toNat → exec .cbcdec s = .next (failed s .invalidBlockLength)) ∧
    (s.len.toNat % 16 ≠ 0 → exec .cbcdec s = .next (failed s .invalidBlockLength)) ∧
    (ctrlPad s = true → s.len.toNat = 0 → exec .cbcdec s = .next (failed s .invalidBlockLength)) ∧
    (s.len.toNat ≤ s.cfg.msgbufBytes → s.len.toNat % 16 = 0 → (ctrlPad s = true → s.len.toNat ≠ 0) →
      ∃ (y : List Byte) (p : Nat), y.length = s.len.toNat ∧
        (∀ i, i < s.len.toNat / 16 →
          blockAt y i = (blockDec c s.key (blockAt (readIn s s.len.toNat) i)).xor
            (if i = 0 then s.iv else blockAt (readIn s s.len.toNat) (i - 1))) ∧
        p = (if ctrlPad s then (y.getD (s.len.toNat - 1) 0).toNat else 0) ∧
        (s.len.toNat < p → exec .cbcdec s = .next (failed s .invalidBlockLength)) ∧
        (p ≤ s.len.toNat → ∃ t : State, exec .cbcdec s = .next t ∧
          t.outLen.toNat = s.len.toNat - p ∧ output t = y.take (s.len.toNat - p) ∧
          t.chain = (if s.len.toNat = 0 then s.iv
            else blockAt (readIn s s.len.toNat) (s.len.toNat / 16 - 1)) ∧
          t.ctrcur = s.ctrcur ∧ modeFrame c s t))

/-- CTRX XORs byte j of the message with byte j mod 16 of the keystream block E(cb(j / 16)), cb(i) being NONCE and
the counter (CTR0 + i) mod 2^64 in the byte order CTR_LE selects; CTRCUR is the next counter; PAD is ignored; a message
over MSGBUF_BYTES raises InvalidBlockLength (46_modes.md R250, R261, R262, R263). -/
def Obligations.CtrxXorsTheKeystream : Prop :=
  ∀ (s : State) (c : Cipher), s.cfg.legal → ctrlCipher s = some c → operandFull s .key →
    operandFull s .nonce → operandFull s .ctr0 →
    (s.cfg.msgbufBytes < s.len.toNat → exec .ctrx s = .next (failed s .invalidBlockLength)) ∧
    (s.len.toNat ≤ s.cfg.msgbufBytes →
      ∃ (cb : Nat → Block) (t : State), exec .ctrx s = .next t ∧ t.outLen = s.len ∧
        (∀ i k, k < 8 → blockByte (cb i) k = operandByte s .nonce k ∧
          blockByte (cb i) (8 + k) = (halfToBits s.ctr0 + BitVec.ofNat 64 i).extractLsb'
            (if s.ctrl.getLsbD 7 then 8 * k else 56 - 8 * k) 8) ∧
        (∀ j, j < s.len.toNat →
          outByte t j = inByte s j ^^^ blockByte (blockEnc c s.key (cb (j / 16))) (j % 16)) ∧
        halfToBits t.ctrcur = halfToBits s.ctr0 + BitVec.ofNat 64 ((s.len.toNat + 15) / 16) ∧
        t.chain = s.chain ∧ modeFrame c s t)

/-- ECB round trip (46_modes.md R255): ECBENC, XFER and ECBDEC give the message back, with PAD = 1 for every length
below MSGBUF_BYTES, with PAD = 0 for whole blocks up to MSGBUF_BYTES, with either cipher. -/
def Obligations.EcbRoundTrip : Prop :=
  ∀ (s : State) (c : Cipher), s.cfg.legal → ctrlCipher s = some c → operandFull s .key →
    (if ctrlPad s then s.len.toNat < s.cfg.msgbufBytes
      else s.len.toNat ≤ s.cfg.msgbufBytes ∧ s.len.toNat % 16 = 0) →
    ∃ t : State, execAll [.ecbenc, .xfer, .ecbdec] s = some t ∧ t.outLen = s.len ∧
      t.errcode = s.errcode ∧ ∀ j, j < s.len.toNat → outByte t j = inByte s j

/-- CBC round trip (46_modes.md R258): CBCENC, XFER and CBCDEC give the message back, under the same conditions. -/
def Obligations.CbcRoundTrip : Prop :=
  ∀ (s : State) (c : Cipher), s.cfg.legal → ctrlCipher s = some c → operandFull s .key → operandFull s .iv →
    (if ctrlPad s then s.len.toNat < s.cfg.msgbufBytes
      else s.len.toNat ≤ s.cfg.msgbufBytes ∧ s.len.toNat % 16 = 0) →
    ∃ t : State, execAll [.cbcenc, .xfer, .cbcdec] s = some t ∧ t.outLen = s.len ∧
      t.errcode = s.errcode ∧ ∀ j, j < s.len.toNat → outByte t j = inByte s j

/-- CTR involution (46_modes.md R263): CTRX, XFER and CTRX give the message back, for every length that fits. -/
def Obligations.CtrInvolution : Prop :=
  ∀ (s : State) (c : Cipher), s.cfg.legal → ctrlCipher s = some c → operandFull s .key →
    operandFull s .nonce → operandFull s .ctr0 → s.len.toNat ≤ s.cfg.msgbufBytes →
    ∃ t : State, execAll [.ctrx, .xfer, .ctrx] s = some t ∧ t.outLen = s.len ∧
      t.errcode = s.errcode ∧ ∀ j, j < s.len.toNat → outByte t j = inByte s j

/-! ### Demonstration cipher -/

/-- XORDEMO (41_xor_demo.md R150, R151): bit i of the result, first bit most significant in byte i / 8, is the XOR of
the operands' bits for i below the common length and 0 past it; lengths over 128 raise InvalidBlockLength, unequal
ones LengthMismatch; nothing else changes, RK included. -/
def Obligations.XordemoXorsBitStrings : Prop :=
  ∀ s : State, operandFull s .key → operandFull s .state →
    (ptBits s ≤ 128 → keyBits s = ptBits s →
      ∃ t : State, exec .xordemo s = .next t ∧
        t = { s with state := t.state, status := statusDone s.status } ∧
        ∀ i, i < 128 →
          (blockByte t.state (i / 8)).getLsbD (7 - i % 8) =
            (decide (i < ptBits s) &&
              ((blockByte s.state (i / 8)).getLsbD (7 - i % 8) ^^
                (blockByte s.key (i / 8)).getLsbD (7 - i % 8)))) ∧
    (128 < ptBits s ∨ 128 < keyBits s → exec .xordemo s = .next (failed s .invalidBlockLength)) ∧
    (ptBits s ≤ 128 → keyBits s ≤ 128 → ptBits s ≠ keyBits s →
      exec .xordemo s = .next (failed s .lengthMismatch))

/-! ### Mode router -/

/-- The lookups of the router: the honored edge into a port is the first valid one in edge order (47_router.md
R291); `first_in_kind` follows the first honored edge into any port of the node whose source is of the kinds and
not the cipher node, `first_out_kind` the first valid edge out of the cipher node's `out` port (R292). -/
def Obligations.LookupsFollowEdgeOrder : Prop :=
  ∀ (s : State) (n p c : Nat) (ks : List NodeKind),
    (∀ j, honored s n p = some j ↔
      j < s.cfg.nEdges ∧ validEdge s j = true ∧ edgeDst s j = n ∧ edgeDport s j = p ∧
        ∀ j', j' < j → ¬ (validEdge s j' = true ∧ edgeDst s j' = n ∧ edgeDport s j' = p)) ∧
    firstIn s n p = (honored s n p).map (edgeSrc s) ∧
    (∀ m, firstInKind s n ks c = some m ↔
      ∃ j, edgeSrc s j = m ∧ (∃ q, q ≤ 6 ∧ honored s n q = some j) ∧ kindIn s m ks = true ∧ m ≠ c ∧
        ∀ j', j' < j → ¬ ((∃ q, q ≤ 6 ∧ honored s n q = some j') ∧
          kindIn s (edgeSrc s j') ks = true ∧ edgeSrc s j' ≠ c)) ∧
    ∀ m, firstOutKind s c ks = some m ↔
      ∃ j, j < s.cfg.nEdges ∧ edgeDst s j = m ∧ validEdge s j = true ∧ edgeSrc s j = c ∧
        edgeSport s j = 0 ∧ kindIn s m ks = true ∧ m ≠ c ∧
        ∀ j', j' < j → ¬ (validEdge s j' = true ∧ edgeSrc s j' = c ∧ edgeSport s j' = 0 ∧
          kindIn s (edgeDst s j') ks = true ∧ edgeDst s j' ≠ c)

/-- ROUTE in ECB mode with direct producers: ROUTE_RES0 names them, and no other role or combine node
(47_router.md R294, R295, R296, R299). -/
def Obligations.RouteDirectEcb : Prop :=
  ∀ (s : State) (p k : Nat), ctrlMode s = some .ecb →
    validNode s s.routeNode.toNat = true → nodeKind s s.routeNode.toNat = some .cipherBlock →
    firstIn s s.routeNode.toNat 1 = some p → nodeKind s p = some .plaintextSource →
    firstIn s s.routeNode.toNat 2 = some k → nodeKind s k = some .keySource →
    exec .route s = .next { s with
      routeRes0 := (0xFFFF : BitVec 16) ++ BitVec.ofNat 8 k ++ BitVec.ofNat 8 p
      routeRes1 := 0xFFFF
      status := statusDone s.status }

/-- ROUTE as the document wires CBC and CTR: in CBC plaintext and chaining value meet at a combine node that feeds
the `xor` port; in CTR the counter source feeds the cipher node and the plaintext a combine node downstream
(47_router.md R293 to R296, R299). -/
def Obligations.RouteThroughCombineNode : Prop :=
  ∀ (s : State) (m p k v : Nat),
    validNode s s.routeNode.toNat = true → nodeKind s s.routeNode.toNat = some .cipherBlock →
    firstIn s s.routeNode.toNat 2 = some k → nodeKind s k = some .keySource →
    (ctrlMode s = some .cbc →
      firstIn s s.routeNode.toNat 1 = none → firstIn s s.routeNode.toNat 3 = none →
      firstIn s s.routeNode.toNat 6 = some m → nodeKind s m = some .combineXor →
      firstInKind s m [.plaintextSource] s.routeNode.toNat = some p →
      firstInKind s m [.ivSource, .cipherBlock] s.routeNode.toNat = some v →
      exec .route s = .next { s with
        routeRes0 := (0xFF : BitVec 8) ++ BitVec.ofNat 8 v ++ BitVec.ofNat 8 k ++ BitVec.ofNat 8 p
        routeRes1 := (0xFF : BitVec 8) ++ BitVec.ofNat 8 m
        status := statusDone s.status }) ∧
    (ctrlMode s = some .ctr →
      firstIn s s.routeNode.toNat 4 = some v → nodeKind s v = some .counterSource →
      firstOutKind s s.routeNode.toNat [.combineXor] = some m →
      firstInKind s m [.plaintextSource] s.routeNode.toNat = some p →
      exec .route s = .next { s with
        routeRes0 := BitVec.ofNat 8 v ++ (0xFF : BitVec 8) ++ BitVec.ofNat 8 k ++ BitVec.ofNat 8 p
        routeRes1 := BitVec.ofNat 8 m ++ (0xFF : BitVec 8)
        status := statusDone s.status })

/-- ROUTE writes its results whether or not every role resolves, and raises MissingInput exactly when ROUTE_NODE is no
valid cipher node or a required role does not resolve (47_router.md R296, R297, R299). The four parts say: what each
mode requires, and where PT is found in CTR (R295); how `resolve` finds a producer, by the port and kinds of R293:
at the port itself, else through the combine node on the role's own port, else through the one on the `xor` port
(R294); when the route succeeds; and what every field of ROUTE_RES0 and ROUTE_RES1 is (R296). -/
def Obligations.RouteKeepsItsResults : Prop :=
  (modeRoles .ecb = [.pt, .key] ∧ modeRoles .cbc = [.pt, .key, .chain] ∧ modeRoles .ctr = [.pt, .key, .ctr] ∧
    ∀ (s : State) (c : Nat),
      (∀ (mode : Mode) (role : Role), ¬ (mode = .ctr ∧ role = .pt) →
        roleProducer s mode c role = resolve s c role) ∧
      ∀ p m, roleProducer s .ctr c .pt = some (p, m) ↔
        m = none ∧ ∃ d, firstOutKind s c [.combineXor] = some d ∧
          firstInKind s d [.plaintextSource] c = some p) ∧
  (∀ (s : State) (c q : Nat) (role : Role) (ks : List NodeKind),
    (role, q, ks) ∈ [(Role.pt, 1, [NodeKind.plaintextSource]), (.key, 2, [.keySource]),
      (.chain, 3, [.ivSource, .cipherBlock]), (.ctr, 4, [.counterSource])] →
    (∀ p, firstIn s c q = some p → p ≠ c → (∃ kd ∈ ks, nodeKind s p = some kd) →
      resolve s c role = some (p, none)) ∧
    (∀ m, firstIn s c q = some m → nodeKind s m = some .combineXor →
      resolve s c role = (firstInKind s m ks c).map (fun t => (t, some m))) ∧
    ((∀ p, firstIn s c q = some p → nodeKind s p ≠ some .combineXor ∧
        ¬ (p ≠ c ∧ ∃ kd ∈ ks, nodeKind s p = some kd)) →
      (∀ m, firstIn s c 6 = some m → nodeKind s m = some .combineXor →
        resolve s c role = (firstInKind s m ks c).map (fun t => (t, some m))) ∧
      ((∀ m, firstIn s c 6 = some m → nodeKind s m ≠ some .combineXor) → resolve s c role = none))) ∧
  ∀ (s : State) (mode : Mode), ctrlMode s = some mode →
    (routeOk s mode = true ↔
      validNode s s.routeNode.toNat = true ∧ nodeKind s s.routeNode.toNat = some .cipherBlock ∧
        ∀ role ∈ modeRoles mode, roleProducer s mode s.routeNode.toNat role ≠ none) ∧
    ∃ (r0 : HWord) (r1 : BitVec 16),
      (¬ (validNode s s.routeNode.toNat = true ∧ nodeKind s s.routeNode.toNat = some .cipherBlock) →
        r0 = 0xFFFFFFFF ∧ r1 = 0xFFFF) ∧
      (validNode s s.routeNode.toNat = true ∧ nodeKind s s.routeNode.toNat = some .cipherBlock →
        (∀ role, (role ∉ modeRoles mode ∨ roleProducer s mode s.routeNode.toNat role = none →
            r0.extractLsb' (routeShift role) 8 = 0xFF) ∧
          ∀ p m, role ∈ modeRoles mode → roleProducer s mode s.routeNode.toNat role = some (p, m) →
            r0.extractLsb' (routeShift role) 8 = BitVec.ofNat 8 p) ∧
        (∀ (before after : List Role) (role : Role) (p m : Nat), modeRoles mode = before ++ role :: after →
          (∀ x ∈ before, ∀ p' m', roleProducer s mode s.routeNode.toNat x ≠ some (p', some m')) →
          roleProducer s mode s.routeNode.toNat role = some (p, some m) →
          r1.extractLsb' 0 8 = BitVec.ofNat 8 m) ∧
        ((∀ x ∈ modeRoles mode, ∀ p m, roleProducer s mode s.routeNode.toNat x ≠ some (p, some m)) →
          r1.extractLsb' 0 8 = 0xFF) ∧
        (∀ d, mode = .ctr → firstOutKind s s.routeNode.toNat [.combineXor] = some d →
          r1.extractLsb' 8 8 = BitVec.ofNat 8 d) ∧
        (mode ≠ .ctr ∨ firstOutKind s s.routeNode.toNat [.combineXor] = none → r1.extractLsb' 8 8 = 0xFF)) ∧
      exec .route s = .next
        (if routeOk s mode then
          { s with routeRes0 := r0, routeRes1 := r1, status := statusDone s.status }
        else failed { s with routeRes0 := r0, routeRes1 := r1 } .missingInput)

/-- RUN is a successful ROUTE followed by the command of 47_router.md R300, error and all (R301); when the route
fails RUN ends as ROUTE does. MODE, DIR and TRUNC are the fields of CTRL of 10_state.md R37. -/
def Obligations.RunIsRouteThenCommand : Prop :=
  (∀ s : State, (ctrlMode s = some .ecb ↔ s.ctrl.extractLsb' 0 2 = 0) ∧
    (ctrlMode s = some .cbc ↔ s.ctrl.extractLsb' 0 2 = 1) ∧
    (ctrlMode s = some .ctr ↔ s.ctrl.extractLsb' 0 2 = 2) ∧
    ctrlDir s = s.ctrl.getLsbD 2 ∧ ctrlTrunc s = s.ctrl.getLsbD 6) ∧
  ∀ (s : State) (mode : Mode) (c : Cipher), ctrlMode s = some mode → ctrlCipher s = some c →
    (routeOk s mode = true → ∃ t : State, exec .route s = .next t ∧ t.errcode = s.errcode ∧
      exec .run s = exec (dispatched mode (ctrlDir s) (ctrlTrunc s)) t) ∧
    (routeOk s mode = false → exec .run s = exec .route s)

/-- RUN completes without error where the route resolves and the operands its command reads are loaded: MSG_OUT and
the other results are those of the command on the routed state (47_router.md R300, R301). -/
def Obligations.RunCompletes : Prop :=
  ∀ (s : State) (mode : Mode) (c : Cipher), s.cfg.legal → ctrlMode s = some mode → ctrlCipher s = some c →
    routeOk s mode = true → ctrlPad s = false → operandFull s .key →
    (mode = .cbc → operandFull s .iv) → (mode = .ctr → operandFull s .nonce ∧ operandFull s .ctr0) →
    s.len.toNat ≤ s.cfg.msgbufBytes → s.len.toNat % 16 = 0 →
    ∃ t u : State, exec .route s = .next t ∧
      exec (dispatched mode (ctrlDir s) (ctrlTrunc s)) t = .next u ∧ exec .run s = .next u ∧
      u.outLen = s.len ∧ u.errcode = s.errcode ∧ u.status = statusDone s.status ∧
      u.routeRes0 = t.routeRes0 ∧ u.routeRes1 = t.routeRes1
end

