-- ==== Sys2Proof/Laws/Ops.lean ====
section
/-! SUPPORT. One law for each shared operation: sparse lists, memory and its canonical form, the buffers,
tables, and the completion of a command. -/

namespace Sys2Proof.Machine

/-! ### Sparse lists -/

theorem cellsGet_put {α : Type} (l : List (Nat × α)) (a b : Nat) (v : α) :
    cellsGet (cellsPut l a v) b = if a = b then some v else cellsGet l b := by
  induction l with
  | nil => simp [cellsPut, cellsGet]
  | cons c l ih =>
    obtain ⟨k, w⟩ := c
    unfold cellsPut
    split
    · simp [cellsGet]
    · split
      · subst k
        by_cases h : a = b <;> simp [cellsGet, h]
      · by_cases h : k = b
        · have : a ≠ b := by omega
          simp [cellsGet, h, this]
        · simp [cellsGet, h, ih]

theorem cellsGet_filter {α : Type} (p : Nat → Bool) (l : List (Nat × α)) (b : Nat) :
    cellsGet (l.filter (fun c => p c.1)) b = if p b then cellsGet l b else none := by
  induction l with
  | nil => simp [cellsGet]
  | cons c l ih =>
    obtain ⟨k, w⟩ := c
    by_cases hk : p k = true
    · by_cases h : k = b
      · subst h; simp [cellsGet, hk]
      · simp [hk, cellsGet, h, ih]
    · by_cases h : k = b
      · subst h; simp [hk, ih]
      · simp [hk, cellsGet, h, ih]

theorem cellsGet_erase {α : Type} (l : List (Nat × α)) (a b : Nat) :
    cellsGet (cellsErase l a) b = if a = b then none else cellsGet l b := by
  unfold cellsErase
  rw [cellsGet_filter (fun k => decide (k ≠ a)) l b]
  by_cases h : a = b
  · simp [h]
  · have : b ≠ a := fun e => h e.symm
    simp [h, this]

theorem mem_cellsPut {α : Type} {l : List (Nat × α)} {a : Nat} {v : α} {c : Nat × α}
    (h : c ∈ cellsPut l a v) : c = (a, v) ∨ c ∈ l := by
  induction l with
  | nil => simpa [cellsPut] using h
  | cons d l ih =>
    obtain ⟨k, w⟩ := d
    unfold cellsPut at h
    split at h
    · simpa using h
    · split at h
      · rcases List.mem_cons.1 h with h | h
        · exact .inl h
        · exact .inr (List.mem_cons_of_mem _ h)
      · rcases List.mem_cons.1 h with h | h
        · exact .inr (h ▸ List.mem_cons_self)
        · exact (ih h).imp id (List.mem_cons_of_mem _)

theorem cellsPut_sorted {α : Type} {l : List (Nat × α)} (a : Nat) (v : α)
    (h : l.Pairwise (fun x y => x.1 < y.1)) :
    (cellsPut l a v).Pairwise (fun x y => x.1 < y.1) := by
  induction l with
  | nil => simp [cellsPut]
  | cons d l ih =>
    obtain ⟨k, w⟩ := d
    rw [List.pairwise_cons] at h
    unfold cellsPut
    split
    · rw [List.pairwise_cons, List.pairwise_cons]
      refine ⟨fun c hc => ?_, h⟩
      rcases List.mem_cons.1 hc with rfl | hc
      · assumption
      · have := h.1 c hc; simp only at *; omega
    · split
      · subst k; exact List.pairwise_cons.2 ⟨h.1, h.2⟩
      · refine List.pairwise_cons.2 ⟨fun c hc => ?_, ih h.2⟩
        rcases mem_cellsPut hc with rfl | hc
        · simp only; omega
        · exact h.1 c hc

/-! ### Memory and tables keep their canonical form -/

theorem memWrite_wf (l : List Byte) (m : Memory) (a : Nat) (h : m.wf) : (memWrite m a l).wf := by
  induction l generalizing m a with
  | nil => exact h
  | cons b l ih => exact ih _ _ (cellsPut_sorted a b h)

theorem dropOut_wf (m : Memory) (h : m.wf) : (dropOut m).wf := List.Pairwise.filter _ h

theorem putLane_wf (m : Memory) (a : Nat) (b : Byte) (on : Bool) (h : m.wf) : (putLane m a b on).wf := by
  unfold putLane
  split
  · exact cellsPut_sorted a b h
  · exact h

theorem writeBufferWord_wf (m : Memory) (a : Nat) (w : Word) (strb : BitVec 4) (h : m.wf) :
    (writeBufferWord m a w strb).wf :=
  putLane_wf _ _ _ _ (putLane_wf _ _ _ _ (putLane_wf _ _ _ _ (putLane_wf _ _ _ _ h)))

theorem reset_mem_wf : State.reset.mem.wf := List.Pairwise.nil

theorem tablePut_wf {n : Nat} (t : Table) (i : Nat) (v : HWord) (hi : i < n) (h : t.wf n) :
    (tablePut t i v).wf n := by
  unfold tablePut
  split
  · exact ⟨List.Pairwise.filter _ h.1, fun c hc => h.2 c (List.mem_filter.1 hc).1⟩
  · refine ⟨cellsPut_sorted i v h.1, fun c hc => ?_⟩
    rcases mem_cellsPut hc with rfl | hc
    · exact ⟨hi, ‹_›⟩
    · exact h.2 c hc

theorem tableGet_put (t : Table) (i j : Nat) (v : HWord) :
    tableGet (tablePut t i v) j = if i = j then v else tableGet t j := by
  unfold tablePut tableGet
  split
  · rename_i h
    rw [cellsGet_erase]
    by_cases hij : i = j <;> simp [hij, h]
  · rw [cellsGet_put]
    by_cases hij : i = j <;> simp [hij]

/-! ### The bytes a store leaves -/

theorem cellsGet_memWrite (l : List Byte) (m : Memory) (a b : Nat) :
    cellsGet (memWrite m a l) b =
      if a ≤ b ∧ b < a + l.length then l[b - a]? else cellsGet m b := by
  induction l generalizing m a with
  | nil =>
    have : ¬ (a ≤ b ∧ b < a + ([] : List Byte).length) := by simp
    rw [if_neg this]; rfl
  | cons x l ih =>
    rw [memWrite, ih, cellsGet_put]
    by_cases h : a = b
    · subst h
      have h1 : ¬ (a + 1 ≤ a ∧ a < a + 1 + l.length) := by omega
      have h2 : a ≤ a ∧ a < a + (x :: l).length := by simp
      rw [if_neg h1, if_pos h2]; simp
    · by_cases h1 : a + 1 ≤ b ∧ b < a + 1 + l.length
      · have h2 : a ≤ b ∧ b < a + (x :: l).length := by simp; omega
        rw [if_pos h1, if_pos h2]
        have : b - a = (b - (a + 1)) + 1 := by omega
        rw [this]; simp
      · have h2 : ¬ (a ≤ b ∧ b < a + (x :: l).length) := by simp; omega
        rw [if_neg h1, if_neg h2, if_neg h]

theorem cellsGet_dropOut (m : Memory) (b : Nat) :
    cellsGet (dropOut m) b = if b < msgOutBase then cellsGet m b else none := by
  unfold dropOut
  rw [cellsGet_filter (fun k => decide (k < msgOutBase)) m b]
  by_cases h : b < msgOutBase <;> simp [h]

theorem mem_memWrite {l : List Byte} {m : Memory} {a : Nat} {c : Host.Cell}
    (h : c ∈ memWrite m a l) : c ∈ m ∨ (a ≤ c.1 ∧ c.1 < a + l.length) := by
  induction l generalizing m a with
  | nil => exact .inl h
  | cons x l ih =>
    rcases ih h with h | h
    · rcases mem_cellsPut h with rfl | h
      · exact .inr (by simp)
      · exact .inl h
    · exact .inr (by simp only [List.length_cons]; omega)

/-- A successful mode command's output: byte `a` of MSG_OUT below OUT_LEN is byte `a` of the result. -/
theorem outByte_writeOutput (s : State) (l : List Byte) (a : Nat) (h : a < l.length) :
    outByte (writeOutput s l) a = l[a] := by
  have h1 : msgOutBase ≤ msgOutBase + a ∧ msgOutBase + a < msgOutBase + l.length := by omega
  have h2 : msgOutBase + a - msgOutBase = a := by omega
  unfold outByte memByte writeOutput
  simp only [cellsGet_memWrite, if_pos h1, h2, List.getElem?_eq_getElem h, Option.getD_some]

/-- A mode command leaves every byte of MSG_IN. -/
theorem inByte_writeOutput (s : State) (l : List Byte) (a : Nat) (h : a < 0x4000) :
    inByte (writeOutput s l) a = inByte s a := by
  have h1 : ¬ (msgOutBase ≤ msgInBase + a ∧ msgInBase + a < msgOutBase + l.length) := by
    simp only [msgOutBase, msgInBase]; omega
  have h2 : msgInBase + a < msgOutBase := by simp only [msgOutBase, msgInBase]; omega
  unfold inByte memByte writeOutput
  simp only [cellsGet_memWrite, if_neg h1, cellsGet_dropOut, if_pos h2]

/-- Storing `l` from byte 0 of MSG_IN: the bytes below its length are `l`, the others stay. -/
theorem inByte_writeIn (s : State) (l : List Byte) (a : Nat) :
    inByte (writeIn s l) a = if h : a < l.length then l[a] else inByte s a := by
  unfold inByte memByte writeIn
  have h2 : msgInBase + a - msgInBase = a := by omega
  by_cases h : a < l.length
  · have h1 : msgInBase ≤ msgInBase + a ∧ msgInBase + a < msgInBase + l.length := by omega
    simp only [cellsGet_memWrite, if_pos h1, h2, List.getElem?_eq_getElem h, Option.getD_some, dif_pos h]
  · have h1 : ¬ (msgInBase ≤ msgInBase + a ∧ msgInBase + a < msgInBase + l.length) := by omega
    simp only [cellsGet_memWrite, if_neg h1, dif_neg h]

/-- Storing at most 16 KiB in MSG_IN leaves MSG_OUT. -/
theorem outByte_writeIn (s : State) (l : List Byte) (a : Nat) (hl : l.length ≤ 0x4000) :
    outByte (writeIn s l) a = outByte s a := by
  have h1 : ¬ (msgInBase ≤ msgOutBase + a ∧ msgOutBase + a < msgInBase + l.length) := by
    simp only [msgOutBase, msgInBase]; omega
  unfold outByte memByte writeIn
  simp only [cellsGet_memWrite, if_neg h1]

@[simp] theorem readIn_length (s : State) (n : Nat) : (readIn s n).length = n := by simp [readIn]

@[simp] theorem readOut_length (s : State) (n : Nat) : (readOut s n).length = n := by simp [readOut]

theorem readIn_getElem (s : State) (n a : Nat) (h : a < (readIn s n).length) :
    (readIn s n)[a] = inByte s a := by simp [readIn]

theorem readOut_getElem (s : State) (n a : Nat) (h : a < (readOut s n).length) :
    (readOut s n)[a] = outByte s a := by simp [readOut]

/-! ### Completion -/

@[simp] theorem finish_ok (s t : State) : finish s (.ok t) = .next (completeOk t) := rfl

@[simp] theorem finish_error (s : State) (e : CmdError) : finish s (.error e) = .next (raiseError s e) := rfl

@[simp] theorem guarded_nil {α : Type} (t : α) : guarded [] t = .ok t := rfl

@[simp] theorem guarded_none {α : Type} (l : List (Option CmdError)) (t : α) :
    guarded (none :: l) t = guarded l t := rfl

@[simp] theorem guarded_some {α : Type} (e : CmdError) (l : List (Option CmdError)) (t : α) :
    guarded (some e :: l) t = .error e := rfl

/-- All that `guarded` can answer: the result, when no check fails, or the error of a failing check. -/
theorem guarded_cases {α : Type} (l : List (Option CmdError)) (t : α) :
    (guarded l t = .ok t ∧ ∀ c ∈ l, c = none) ∨ ∃ e, some e ∈ l ∧ guarded l t = .error e := by
  induction l with
  | nil => exact .inl ⟨rfl, by simp⟩
  | cons c l ih =>
    cases c with
    | none =>
      rcases ih with ⟨h, hl⟩ | ⟨e, he, h⟩
      · exact .inl ⟨h, by simpa using hl⟩
      · exact .inr ⟨e, List.mem_cons_of_mem _ he, h⟩
    | some e => exact .inr ⟨e, List.mem_cons_self, rfl⟩

theorem failIf_pos {bad : Prop} [Decidable bad] (e : CmdError) (h : bad) : failIf bad e = some e := if_pos h

theorem failIf_neg {bad : Prop} [Decidable bad] (e : CmdError) (h : ¬ bad) : failIf bad e = none := if_neg h

end Sys2Proof.Machine
end

