-- ==== Sys2Proof/Laws/Operands.lean ====
section
/-! SUPPORT. Laws of the operand check, and of byte sequences and their blocks. -/

namespace Sys2Proof.Machine

open Sys2Proof.Safety

/-! ### The operand check -/

theorem need_full {s : State} {x : OpReg} (h : operandFull s x) : need s x = none := by
  cases x <;> simp only [operandFull] at h <;> simp [need, needMask, h]

theorem needMask_zero {n : Nat} {m : BitVec n} (e : CmdError) (h : m = 0) :
    needMask m e = some .missingInput := if_pos h

theorem needMask_partial {n : Nat} {m : BitVec n} (e : CmdError) (h : m ≠ 0) (h' : m ≠ BitVec.allOnes n) :
    needMask m e = some e := by
  rw [needMask, if_neg h, if_neg h']

/-- Every error of an operand check is MissingInput or that register's partial-write error. -/
theorem need_cases {s : State} {x : OpReg} {e : CmdError} (h : need s x = some e) :
    e = .missingInput ∨ ((x = .key ∨ x = .state) ∧ e = .invalidBlockLength) ∨
      ((x = .iv ∨ x = .nonce ∨ x = .ctr0) ∧ e = .invalidKeyMaterial) := by
  cases x <;> simp only [need, needMask] at h <;> split at h <;> try split at h
  all_goals first | (cases h; done) | (cases h; simp)

/-! ### Bytes and blocks -/

@[simp] theorem blockBytes_length (x : Block) : (blockBytes x).length = 16 := rfl

theorem blockBytes_getElem (x : Block) (k : Nat) (h : k < (blockBytes x).length) :
    (blockBytes x)[k] = blockByte x k := by
  have h' : k < 16 := h
  interval_cases k <;> rfl

@[simp] theorem blockOfBytes_blockBytes (x : Block) : blockOfBytes (blockBytes x) = x := rfl

theorem blockOfBytes_append (x : Block) (l : List Byte) : blockOfBytes (blockBytes x ++ l) = x := rfl

theorem blockByte_blockOfBytes (l : List Byte) (k : Nat) (h : k < 16) :
    blockByte (blockOfBytes l) k = l.getD k 0 := by
  interval_cases k <;> rfl

theorem blockBytes_blockOfBytes (l : List Byte) (h : 16 ≤ l.length) : blockBytes (blockOfBytes l) = l.take 16 := by
  apply List.ext_getElem
  · simp [h]
  · intro k h1 h2
    have h1' : k < 16 := h1
    rw [blockBytes_getElem, blockByte_blockOfBytes _ _ h1', List.getElem_take,
      List.getD_eq_getElem?_getD, List.getElem?_eq_getElem (by omega), Option.getD_some]

/-- Two blocks with equal bytes are equal. -/
theorem block_ext {x y : Block} (h : ∀ k, k < 16 → blockByte x k = blockByte y k) : x = y := by
  rw [← blockOfBytes_blockBytes x, ← blockOfBytes_blockBytes y]
  congr 1
  apply List.ext_getElem
  · rfl
  · intro k h1 h2
    rw [blockBytes_getElem, blockBytes_getElem]
    exact h k h1

@[simp] theorem bytesOf_nil : bytesOf [] = [] := rfl

@[simp] theorem bytesOf_cons (x : Block) (l : List Block) : bytesOf (x :: l) = blockBytes x ++ bytesOf l := rfl

@[simp] theorem bytesOf_length (l : List Block) : (bytesOf l).length = 16 * l.length := by
  induction l with
  | nil => rfl
  | cons x l ih => simp [ih]; omega

@[simp] theorem blocksOf_length (m : Nat) (l : List Byte) : (blocksOf m l).length = m := by
  induction m generalizing l with
  | zero => rfl
  | succ m ih => simp [blocksOf, ih]

theorem blocksOf_getElem (m : Nat) (l : List Byte) (i : Nat) (h : i < (blocksOf m l).length) :
    (blocksOf m l)[i] = blockAt l i := by
  induction m generalizing l i with
  | zero => simp [blocksOf] at h
  | succ m ih =>
    cases i with
    | zero => rfl
    | succ i =>
      simp only [blocksOf, List.getElem_cons_succ]
      rw [ih]
      simp only [blockAt, List.drop_drop]
      congr 2; omega

theorem drop_bytesOf (l : List Block) (i : Nat) : (bytesOf l).drop (16 * i) = bytesOf (l.drop i) := by
  induction l generalizing i with
  | nil => simp
  | cons x l ih =>
    cases i with
    | zero => rfl
    | succ i =>
      rw [List.drop_succ_cons, ← ih, bytesOf_cons, List.drop_append, List.drop_eq_nil_of_le (by simp)]
      simp only [blockBytes_length, List.nil_append]
      congr 1

/-- Block `i` of the bytes of a sequence of blocks is its block `i`. -/
theorem blockAt_bytesOf (l : List Block) (i : Nat) (h : i < l.length) : blockAt (bytesOf l) i = l[i] := by
  unfold blockAt
  rw [drop_bytesOf, List.drop_eq_getElem_cons h, bytesOf_cons, blockOfBytes_append]

theorem getElem_bytesOf (l : List Block) (j : Nat) (h : j < (bytesOf l).length) :
    (bytesOf l)[j] = blockByte (l[j / 16]'(by simp at h; omega)) (j % 16) := by
  have h1 : j / 16 < l.length := by simp at h; omega
  rw [← blockAt_bytesOf l (j / 16) h1]
  unfold blockAt
  rw [blockByte_blockOfBytes _ _ (Nat.mod_lt _ (by omega)), List.getD_eq_getElem?_getD, List.getElem?_drop,
    Nat.div_add_mod, List.getElem?_eq_getElem h, Option.getD_some]

/-- A sequence of whole blocks is the bytes of its blocks. -/
theorem bytesOf_blocksOf (m : Nat) (l : List Byte) (h : l.length = 16 * m) : bytesOf (blocksOf m l) = l := by
  induction m generalizing l with
  | zero => simpa [blocksOf] using (List.length_eq_zero_iff.1 (by omega)).symm
  | succ m ih =>
    rw [blocksOf, bytesOf_cons, ih _ (by simp; omega), blockBytes_blockOfBytes _ (by omega),
      List.take_append_drop]

/-- The blocks of the bytes of a sequence of blocks are that sequence. -/
theorem blocksOf_bytesOf (bs : List Block) : blocksOf bs.length (bytesOf bs) = bs := by
  induction bs with
  | nil => rfl
  | cons x l ih =>
    rw [List.length_cons, blocksOf, bytesOf_cons, blockOfBytes_append, List.drop_append,
      List.drop_eq_nil_of_le (by simp)]
    simp [ih]

end Sys2Proof.Machine
end

