-- ==== Sys2Proof/Laws/State.lean ====
section
/-! SUPPORT. Each field of State after each named update, true by definition. -/

namespace Sys2Proof.Machine

@[simp] theorem completeOk_cfg (s : State) : (completeOk s).cfg = s.cfg := rfl
@[simp] theorem completeOk_cmd (s : State) : (completeOk s).cmd = s.cmd := rfl
@[simp] theorem completeOk_ctrl (s : State) : (completeOk s).ctrl = s.ctrl := rfl
@[simp] theorem completeOk_status (s : State) : (completeOk s).status = { s.status with busy := false, done := true } := rfl
@[simp] theorem completeOk_errcode (s : State) : (completeOk s).errcode = s.errcode := rfl
@[simp] theorem completeOk_len (s : State) : (completeOk s).len = s.len := rfl
@[simp] theorem completeOk_outLen (s : State) : (completeOk s).outLen = s.outLen := rfl
@[simp] theorem completeOk_xlen (s : State) : (completeOk s).xlen = s.xlen := rfl
@[simp] theorem completeOk_keyM (s : State) : (completeOk s).keyM = s.keyM := rfl
@[simp] theorem completeOk_stateM (s : State) : (completeOk s).stateM = s.stateM := rfl
@[simp] theorem completeOk_ivM (s : State) : (completeOk s).ivM = s.ivM := rfl
@[simp] theorem completeOk_nonceM (s : State) : (completeOk s).nonceM = s.nonceM := rfl
@[simp] theorem completeOk_ctr0M (s : State) : (completeOk s).ctr0M = s.ctr0M := rfl
@[simp] theorem completeOk_key (s : State) : (completeOk s).key = s.key := rfl
@[simp] theorem completeOk_state (s : State) : (completeOk s).state = s.state := rfl
@[simp] theorem completeOk_iv (s : State) : (completeOk s).iv = s.iv := rfl
@[simp] theorem completeOk_nonce (s : State) : (completeOk s).nonce = s.nonce := rfl
@[simp] theorem completeOk_ctr0 (s : State) : (completeOk s).ctr0 = s.ctr0 := rfl
@[simp] theorem completeOk_chain (s : State) : (completeOk s).chain = s.chain := rfl
@[simp] theorem completeOk_ctrcur (s : State) : (completeOk s).ctrcur = s.ctrcur := rfl
@[simp] theorem completeOk_rk (s : State) : (completeOk s).rk = s.rk := rfl
@[simp] theorem completeOk_tr (s : State) : (completeOk s).tr = s.tr := rfl
@[simp] theorem completeOk_ksd (s : State) : (completeOk s).ksd = s.ksd := rfl
@[simp] theorem completeOk_gfRes (s : State) : (completeOk s).gfRes = s.gfRes := rfl
@[simp] theorem completeOk_routeNode (s : State) : (completeOk s).routeNode = s.routeNode := rfl
@[simp] theorem completeOk_routeRes0 (s : State) : (completeOk s).routeRes0 = s.routeRes0 := rfl
@[simp] theorem completeOk_routeRes1 (s : State) : (completeOk s).routeRes1 = s.routeRes1 := rfl
@[simp] theorem completeOk_nodes (s : State) : (completeOk s).nodes = s.nodes := rfl
@[simp] theorem completeOk_edges (s : State) : (completeOk s).edges = s.edges := rfl
@[simp] theorem completeOk_mem (s : State) : (completeOk s).mem = s.mem := rfl
@[simp] theorem completeOk_pending (s : State) : (completeOk s).pending = s.pending := rfl
@[simp] theorem completeOk_resp (s : State) : (completeOk s).resp = s.resp := rfl
@[simp] theorem completeOk_wait (s : State) : (completeOk s).wait = s.wait := rfl
@[simp] theorem completeOk_draws (s : State) : (completeOk s).draws = s.draws := rfl
@[simp] theorem completeOk_inGen (s : State) : (completeOk s).inGen = s.inGen := rfl
@[simp] theorem completeOk_outGen (s : State) : (completeOk s).outGen = s.outGen := rfl

@[simp] theorem raiseError_cfg (s : State) (e : CmdError) : (raiseError s e).cfg = s.cfg := rfl
@[simp] theorem raiseError_cmd (s : State) (e : CmdError) : (raiseError s e).cmd = s.cmd := rfl
@[simp] theorem raiseError_ctrl (s : State) (e : CmdError) : (raiseError s e).ctrl = s.ctrl := rfl
@[simp] theorem raiseError_status (s : State) (e : CmdError) : (raiseError s e).status = { s.status with busy := false, done := true, err := true, errSticky := true } := rfl
@[simp] theorem raiseError_errcode (s : State) (e : CmdError) : (raiseError s e).errcode = errCode e := rfl
@[simp] theorem raiseError_len (s : State) (e : CmdError) : (raiseError s e).len = s.len := rfl
@[simp] theorem raiseError_outLen (s : State) (e : CmdError) : (raiseError s e).outLen = s.outLen := rfl
@[simp] theorem raiseError_xlen (s : State) (e : CmdError) : (raiseError s e).xlen = s.xlen := rfl
@[simp] theorem raiseError_keyM (s : State) (e : CmdError) : (raiseError s e).keyM = s.keyM := rfl
@[simp] theorem raiseError_stateM (s : State) (e : CmdError) : (raiseError s e).stateM = s.stateM := rfl
@[simp] theorem raiseError_ivM (s : State) (e : CmdError) : (raiseError s e).ivM = s.ivM := rfl
@[simp] theorem raiseError_nonceM (s : State) (e : CmdError) : (raiseError s e).nonceM = s.nonceM := rfl
@[simp] theorem raiseError_ctr0M (s : State) (e : CmdError) : (raiseError s e).ctr0M = s.ctr0M := rfl
@[simp] theorem raiseError_key (s : State) (e : CmdError) : (raiseError s e).key = s.key := rfl
@[simp] theorem raiseError_state (s : State) (e : CmdError) : (raiseError s e).state = s.state := rfl
@[simp] theorem raiseError_iv (s : State) (e : CmdError) : (raiseError s e).iv = s.iv := rfl
@[simp] theorem raiseError_nonce (s : State) (e : CmdError) : (raiseError s e).nonce = s.nonce := rfl
@[simp] theorem raiseError_ctr0 (s : State) (e : CmdError) : (raiseError s e).ctr0 = s.ctr0 := rfl
@[simp] theorem raiseError_chain (s : State) (e : CmdError) : (raiseError s e).chain = s.chain := rfl
@[simp] theorem raiseError_ctrcur (s : State) (e : CmdError) : (raiseError s e).ctrcur = s.ctrcur := rfl
@[simp] theorem raiseError_rk (s : State) (e : CmdError) : (raiseError s e).rk = s.rk := rfl
@[simp] theorem raiseError_tr (s : State) (e : CmdError) : (raiseError s e).tr = s.tr := rfl
@[simp] theorem raiseError_ksd (s : State) (e : CmdError) : (raiseError s e).ksd = s.ksd := rfl
@[simp] theorem raiseError_gfRes (s : State) (e : CmdError) : (raiseError s e).gfRes = s.gfRes := rfl
@[simp] theorem raiseError_routeNode (s : State) (e : CmdError) : (raiseError s e).routeNode = s.routeNode := rfl
@[simp] theorem raiseError_routeRes0 (s : State) (e : CmdError) : (raiseError s e).routeRes0 = s.routeRes0 := rfl
@[simp] theorem raiseError_routeRes1 (s : State) (e : CmdError) : (raiseError s e).routeRes1 = s.routeRes1 := rfl
@[simp] theorem raiseError_nodes (s : State) (e : CmdError) : (raiseError s e).nodes = s.nodes := rfl
@[simp] theorem raiseError_edges (s : State) (e : CmdError) : (raiseError s e).edges = s.edges := rfl
@[simp] theorem raiseError_mem (s : State) (e : CmdError) : (raiseError s e).mem = s.mem := rfl
@[simp] theorem raiseError_pending (s : State) (e : CmdError) : (raiseError s e).pending = s.pending := rfl
@[simp] theorem raiseError_resp (s : State) (e : CmdError) : (raiseError s e).resp = s.resp := rfl
@[simp] theorem raiseError_wait (s : State) (e : CmdError) : (raiseError s e).wait = s.wait := rfl
@[simp] theorem raiseError_draws (s : State) (e : CmdError) : (raiseError s e).draws = s.draws := rfl
@[simp] theorem raiseError_inGen (s : State) (e : CmdError) : (raiseError s e).inGen = s.inGen := rfl
@[simp] theorem raiseError_outGen (s : State) (e : CmdError) : (raiseError s e).outGen = s.outGen := rfl

@[simp] theorem writeIn_cfg (s : State) (l : List Byte) : (writeIn s l).cfg = s.cfg := rfl
@[simp] theorem writeIn_cmd (s : State) (l : List Byte) : (writeIn s l).cmd = s.cmd := rfl
@[simp] theorem writeIn_ctrl (s : State) (l : List Byte) : (writeIn s l).ctrl = s.ctrl := rfl
@[simp] theorem writeIn_status (s : State) (l : List Byte) : (writeIn s l).status = s.status := rfl
@[simp] theorem writeIn_errcode (s : State) (l : List Byte) : (writeIn s l).errcode = s.errcode := rfl
@[simp] theorem writeIn_len (s : State) (l : List Byte) : (writeIn s l).len = s.len := rfl
@[simp] theorem writeIn_outLen (s : State) (l : List Byte) : (writeIn s l).outLen = s.outLen := rfl
@[simp] theorem writeIn_xlen (s : State) (l : List Byte) : (writeIn s l).xlen = s.xlen := rfl
@[simp] theorem writeIn_keyM (s : State) (l : List Byte) : (writeIn s l).keyM = s.keyM := rfl
@[simp] theorem writeIn_stateM (s : State) (l : List Byte) : (writeIn s l).stateM = s.stateM := rfl
@[simp] theorem writeIn_ivM (s : State) (l : List Byte) : (writeIn s l).ivM = s.ivM := rfl
@[simp] theorem writeIn_nonceM (s : State) (l : List Byte) : (writeIn s l).nonceM = s.nonceM := rfl
@[simp] theorem writeIn_ctr0M (s : State) (l : List Byte) : (writeIn s l).ctr0M = s.ctr0M := rfl
@[simp] theorem writeIn_key (s : State) (l : List Byte) : (writeIn s l).key = s.key := rfl
@[simp] theorem writeIn_state (s : State) (l : List Byte) : (writeIn s l).state = s.state := rfl
@[simp] theorem writeIn_iv (s : State) (l : List Byte) : (writeIn s l).iv = s.iv := rfl
@[simp] theorem writeIn_nonce (s : State) (l : List Byte) : (writeIn s l).nonce = s.nonce := rfl
@[simp] theorem writeIn_ctr0 (s : State) (l : List Byte) : (writeIn s l).ctr0 = s.ctr0 := rfl
@[simp] theorem writeIn_chain (s : State) (l : List Byte) : (writeIn s l).chain = s.chain := rfl
@[simp] theorem writeIn_ctrcur (s : State) (l : List Byte) : (writeIn s l).ctrcur = s.ctrcur := rfl
@[simp] theorem writeIn_rk (s : State) (l : List Byte) : (writeIn s l).rk = s.rk := rfl
@[simp] theorem writeIn_tr (s : State) (l : List Byte) : (writeIn s l).tr = s.tr := rfl
@[simp] theorem writeIn_ksd (s : State) (l : List Byte) : (writeIn s l).ksd = s.ksd := rfl
@[simp] theorem writeIn_gfRes (s : State) (l : List Byte) : (writeIn s l).gfRes = s.gfRes := rfl
@[simp] theorem writeIn_routeNode (s : State) (l : List Byte) : (writeIn s l).routeNode = s.routeNode := rfl
@[simp] theorem writeIn_routeRes0 (s : State) (l : List Byte) : (writeIn s l).routeRes0 = s.routeRes0 := rfl
@[simp] theorem writeIn_routeRes1 (s : State) (l : List Byte) : (writeIn s l).routeRes1 = s.routeRes1 := rfl
@[simp] theorem writeIn_nodes (s : State) (l : List Byte) : (writeIn s l).nodes = s.nodes := rfl
@[simp] theorem writeIn_edges (s : State) (l : List Byte) : (writeIn s l).edges = s.edges := rfl
@[simp] theorem writeIn_mem (s : State) (l : List Byte) : (writeIn s l).mem = memWrite s.mem msgInBase l := rfl
@[simp] theorem writeIn_pending (s : State) (l : List Byte) : (writeIn s l).pending = s.pending := rfl
@[simp] theorem writeIn_resp (s : State) (l : List Byte) : (writeIn s l).resp = s.resp := rfl
@[simp] theorem writeIn_wait (s : State) (l : List Byte) : (writeIn s l).wait = s.wait := rfl
@[simp] theorem writeIn_draws (s : State) (l : List Byte) : (writeIn s l).draws = s.draws := rfl
@[simp] theorem writeIn_inGen (s : State) (l : List Byte) : (writeIn s l).inGen = s.inGen := rfl
@[simp] theorem writeIn_outGen (s : State) (l : List Byte) : (writeIn s l).outGen = s.outGen := rfl

@[simp] theorem writeOutput_cfg (s : State) (l : List Byte) : (writeOutput s l).cfg = s.cfg := rfl
@[simp] theorem writeOutput_cmd (s : State) (l : List Byte) : (writeOutput s l).cmd = s.cmd := rfl
@[simp] theorem writeOutput_ctrl (s : State) (l : List Byte) : (writeOutput s l).ctrl = s.ctrl := rfl
@[simp] theorem writeOutput_status (s : State) (l : List Byte) : (writeOutput s l).status = s.status := rfl
@[simp] theorem writeOutput_errcode (s : State) (l : List Byte) : (writeOutput s l).errcode = s.errcode := rfl
@[simp] theorem writeOutput_len (s : State) (l : List Byte) : (writeOutput s l).len = s.len := rfl
@[simp] theorem writeOutput_outLen (s : State) (l : List Byte) : (writeOutput s l).outLen = BitVec.ofNat 16 l.length := rfl
@[simp] theorem writeOutput_xlen (s : State) (l : List Byte) : (writeOutput s l).xlen = s.xlen := rfl
@[simp] theorem writeOutput_keyM (s : State) (l : List Byte) : (writeOutput s l).keyM = s.keyM := rfl
@[simp] theorem writeOutput_stateM (s : State) (l : List Byte) : (writeOutput s l).stateM = s.stateM := rfl
@[simp] theorem writeOutput_ivM (s : State) (l : List Byte) : (writeOutput s l).ivM = s.ivM := rfl
@[simp] theorem writeOutput_nonceM (s : State) (l : List Byte) : (writeOutput s l).nonceM = s.nonceM := rfl
@[simp] theorem writeOutput_ctr0M (s : State) (l : List Byte) : (writeOutput s l).ctr0M = s.ctr0M := rfl
@[simp] theorem writeOutput_key (s : State) (l : List Byte) : (writeOutput s l).key = s.key := rfl
@[simp] theorem writeOutput_state (s : State) (l : List Byte) : (writeOutput s l).state = s.state := rfl
@[simp] theorem writeOutput_iv (s : State) (l : List Byte) : (writeOutput s l).iv = s.iv := rfl
@[simp] theorem writeOutput_nonce (s : State) (l : List Byte) : (writeOutput s l).nonce = s.nonce := rfl
@[simp] theorem writeOutput_ctr0 (s : State) (l : List Byte) : (writeOutput s l).ctr0 = s.ctr0 := rfl
@[simp] theorem writeOutput_chain (s : State) (l : List Byte) : (writeOutput s l).chain = s.chain := rfl
@[simp] theorem writeOutput_ctrcur (s : State) (l : List Byte) : (writeOutput s l).ctrcur = s.ctrcur := rfl
@[simp] theorem writeOutput_rk (s : State) (l : List Byte) : (writeOutput s l).rk = s.rk := rfl
@[simp] theorem writeOutput_tr (s : State) (l : List Byte) : (writeOutput s l).tr = s.tr := rfl
@[simp] theorem writeOutput_ksd (s : State) (l : List Byte) : (writeOutput s l).ksd = s.ksd := rfl
@[simp] theorem writeOutput_gfRes (s : State) (l : List Byte) : (writeOutput s l).gfRes = s.gfRes := rfl
@[simp] theorem writeOutput_routeNode (s : State) (l : List Byte) : (writeOutput s l).routeNode = s.routeNode := rfl
@[simp] theorem writeOutput_routeRes0 (s : State) (l : List Byte) : (writeOutput s l).routeRes0 = s.routeRes0 := rfl
@[simp] theorem writeOutput_routeRes1 (s : State) (l : List Byte) : (writeOutput s l).routeRes1 = s.routeRes1 := rfl
@[simp] theorem writeOutput_nodes (s : State) (l : List Byte) : (writeOutput s l).nodes = s.nodes := rfl
@[simp] theorem writeOutput_edges (s : State) (l : List Byte) : (writeOutput s l).edges = s.edges := rfl
@[simp] theorem writeOutput_mem (s : State) (l : List Byte) : (writeOutput s l).mem = memWrite (dropOut s.mem) msgOutBase l := rfl
@[simp] theorem writeOutput_pending (s : State) (l : List Byte) : (writeOutput s l).pending = s.pending := rfl
@[simp] theorem writeOutput_resp (s : State) (l : List Byte) : (writeOutput s l).resp = s.resp := rfl
@[simp] theorem writeOutput_wait (s : State) (l : List Byte) : (writeOutput s l).wait = s.wait := rfl
@[simp] theorem writeOutput_draws (s : State) (l : List Byte) : (writeOutput s l).draws = s.draws + 1 := rfl
@[simp] theorem writeOutput_inGen (s : State) (l : List Byte) : (writeOutput s l).inGen = s.inGen := rfl
@[simp] theorem writeOutput_outGen (s : State) (l : List Byte) : (writeOutput s l).outGen = s.draws := rfl

@[simp] theorem withRk_cfg (s : State) : (withRk s).cfg = s.cfg := rfl
@[simp] theorem withRk_cmd (s : State) : (withRk s).cmd = s.cmd := rfl
@[simp] theorem withRk_ctrl (s : State) : (withRk s).ctrl = s.ctrl := rfl
@[simp] theorem withRk_status (s : State) : (withRk s).status = s.status := rfl
@[simp] theorem withRk_errcode (s : State) : (withRk s).errcode = s.errcode := rfl
@[simp] theorem withRk_len (s : State) : (withRk s).len = s.len := rfl
@[simp] theorem withRk_outLen (s : State) : (withRk s).outLen = s.outLen := rfl
@[simp] theorem withRk_xlen (s : State) : (withRk s).xlen = s.xlen := rfl
@[simp] theorem withRk_keyM (s : State) : (withRk s).keyM = s.keyM := rfl
@[simp] theorem withRk_stateM (s : State) : (withRk s).stateM = s.stateM := rfl
@[simp] theorem withRk_ivM (s : State) : (withRk s).ivM = s.ivM := rfl
@[simp] theorem withRk_nonceM (s : State) : (withRk s).nonceM = s.nonceM := rfl
@[simp] theorem withRk_ctr0M (s : State) : (withRk s).ctr0M = s.ctr0M := rfl
@[simp] theorem withRk_key (s : State) : (withRk s).key = s.key := rfl
@[simp] theorem withRk_state (s : State) : (withRk s).state = s.state := rfl
@[simp] theorem withRk_iv (s : State) : (withRk s).iv = s.iv := rfl
@[simp] theorem withRk_nonce (s : State) : (withRk s).nonce = s.nonce := rfl
@[simp] theorem withRk_ctr0 (s : State) : (withRk s).ctr0 = s.ctr0 := rfl
@[simp] theorem withRk_chain (s : State) : (withRk s).chain = s.chain := rfl
@[simp] theorem withRk_ctrcur (s : State) : (withRk s).ctrcur = s.ctrcur := rfl
@[simp] theorem withRk_rk (s : State) : (withRk s).rk = expandKey s.key := rfl
@[simp] theorem withRk_tr (s : State) : (withRk s).tr = s.tr := rfl
@[simp] theorem withRk_ksd (s : State) : (withRk s).ksd = s.ksd := rfl
@[simp] theorem withRk_gfRes (s : State) : (withRk s).gfRes = s.gfRes := rfl
@[simp] theorem withRk_routeNode (s : State) : (withRk s).routeNode = s.routeNode := rfl
@[simp] theorem withRk_routeRes0 (s : State) : (withRk s).routeRes0 = s.routeRes0 := rfl
@[simp] theorem withRk_routeRes1 (s : State) : (withRk s).routeRes1 = s.routeRes1 := rfl
@[simp] theorem withRk_nodes (s : State) : (withRk s).nodes = s.nodes := rfl
@[simp] theorem withRk_edges (s : State) : (withRk s).edges = s.edges := rfl
@[simp] theorem withRk_mem (s : State) : (withRk s).mem = s.mem := rfl
@[simp] theorem withRk_pending (s : State) : (withRk s).pending = s.pending := rfl
@[simp] theorem withRk_resp (s : State) : (withRk s).resp = s.resp := rfl
@[simp] theorem withRk_wait (s : State) : (withRk s).wait = s.wait := rfl
@[simp] theorem withRk_draws (s : State) : (withRk s).draws = s.draws := rfl
@[simp] theorem withRk_inGen (s : State) : (withRk s).inGen = s.inGen := rfl
@[simp] theorem withRk_outGen (s : State) : (withRk s).outGen = s.outGen := rfl

@[simp] theorem accept_cfg (s : State) (w : HWord) : (accept s w).cfg = s.cfg := rfl
@[simp] theorem accept_cmd (s : State) (w : HWord) : (accept s w).cmd = w := rfl
@[simp] theorem accept_ctrl (s : State) (w : HWord) : (accept s w).ctrl = s.ctrl := rfl
@[simp] theorem accept_status (s : State) (w : HWord) : (accept s w).status = { s.status with busy := true, done := false, err := false } := rfl
@[simp] theorem accept_errcode (s : State) (w : HWord) : (accept s w).errcode = 0 := rfl
@[simp] theorem accept_len (s : State) (w : HWord) : (accept s w).len = s.len := rfl
@[simp] theorem accept_outLen (s : State) (w : HWord) : (accept s w).outLen = s.outLen := rfl
@[simp] theorem accept_xlen (s : State) (w : HWord) : (accept s w).xlen = s.xlen := rfl
@[simp] theorem accept_keyM (s : State) (w : HWord) : (accept s w).keyM = s.keyM := rfl
@[simp] theorem accept_stateM (s : State) (w : HWord) : (accept s w).stateM = s.stateM := rfl
@[simp] theorem accept_ivM (s : State) (w : HWord) : (accept s w).ivM = s.ivM := rfl
@[simp] theorem accept_nonceM (s : State) (w : HWord) : (accept s w).nonceM = s.nonceM := rfl
@[simp] theorem accept_ctr0M (s : State) (w : HWord) : (accept s w).ctr0M = s.ctr0M := rfl
@[simp] theorem accept_key (s : State) (w : HWord) : (accept s w).key = s.key := rfl
@[simp] theorem accept_state (s : State) (w : HWord) : (accept s w).state = s.state := rfl
@[simp] theorem accept_iv (s : State) (w : HWord) : (accept s w).iv = s.iv := rfl
@[simp] theorem accept_nonce (s : State) (w : HWord) : (accept s w).nonce = s.nonce := rfl
@[simp] theorem accept_ctr0 (s : State) (w : HWord) : (accept s w).ctr0 = s.ctr0 := rfl
@[simp] theorem accept_chain (s : State) (w : HWord) : (accept s w).chain = s.chain := rfl
@[simp] theorem accept_ctrcur (s : State) (w : HWord) : (accept s w).ctrcur = s.ctrcur := rfl
@[simp] theorem accept_rk (s : State) (w : HWord) : (accept s w).rk = s.rk := rfl
@[simp] theorem accept_tr (s : State) (w : HWord) : (accept s w).tr = s.tr := rfl
@[simp] theorem accept_ksd (s : State) (w : HWord) : (accept s w).ksd = s.ksd := rfl
@[simp] theorem accept_gfRes (s : State) (w : HWord) : (accept s w).gfRes = s.gfRes := rfl
@[simp] theorem accept_routeNode (s : State) (w : HWord) : (accept s w).routeNode = s.routeNode := rfl
@[simp] theorem accept_routeRes0 (s : State) (w : HWord) : (accept s w).routeRes0 = s.routeRes0 := rfl
@[simp] theorem accept_routeRes1 (s : State) (w : HWord) : (accept s w).routeRes1 = s.routeRes1 := rfl
@[simp] theorem accept_nodes (s : State) (w : HWord) : (accept s w).nodes = s.nodes := rfl
@[simp] theorem accept_edges (s : State) (w : HWord) : (accept s w).edges = s.edges := rfl
@[simp] theorem accept_mem (s : State) (w : HWord) : (accept s w).mem = s.mem := rfl
@[simp] theorem accept_pending (s : State) (w : HWord) : (accept s w).pending = s.pending := rfl
@[simp] theorem accept_resp (s : State) (w : HWord) : (accept s w).resp = s.resp := rfl
@[simp] theorem accept_wait (s : State) (w : HWord) : (accept s w).wait = Config.latency s.draws := rfl
@[simp] theorem accept_draws (s : State) (w : HWord) : (accept s w).draws = s.draws + 1 := rfl
@[simp] theorem accept_inGen (s : State) (w : HWord) : (accept s w).inGen = s.inGen := rfl
@[simp] theorem accept_outGen (s : State) (w : HWord) : (accept s w).outGen = s.outGen := rfl

@[simp] theorem routed_cfg (s : State) (m : Mode) : (routed s m).cfg = s.cfg := by
  unfold routed; split <;> rfl
@[simp] theorem routed_cmd (s : State) (m : Mode) : (routed s m).cmd = s.cmd := by
  unfold routed; split <;> rfl
@[simp] theorem routed_ctrl (s : State) (m : Mode) : (routed s m).ctrl = s.ctrl := by
  unfold routed; split <;> rfl
@[simp] theorem routed_status (s : State) (m : Mode) : (routed s m).status = s.status := by
  unfold routed; split <;> rfl
@[simp] theorem routed_errcode (s : State) (m : Mode) : (routed s m).errcode = s.errcode := by
  unfold routed; split <;> rfl
@[simp] theorem routed_len (s : State) (m : Mode) : (routed s m).len = s.len := by
  unfold routed; split <;> rfl
@[simp] theorem routed_outLen (s : State) (m : Mode) : (routed s m).outLen = s.outLen := by
  unfold routed; split <;> rfl
@[simp] theorem routed_xlen (s : State) (m : Mode) : (routed s m).xlen = s.xlen := by
  unfold routed; split <;> rfl
@[simp] theorem routed_keyM (s : State) (m : Mode) : (routed s m).keyM = s.keyM := by
  unfold routed; split <;> rfl
@[simp] theorem routed_stateM (s : State) (m : Mode) : (routed s m).stateM = s.stateM := by
  unfold routed; split <;> rfl
@[simp] theorem routed_ivM (s : State) (m : Mode) : (routed s m).ivM = s.ivM := by
  unfold routed; split <;> rfl
@[simp] theorem routed_nonceM (s : State) (m : Mode) : (routed s m).nonceM = s.nonceM := by
  unfold routed; split <;> rfl
@[simp] theorem routed_ctr0M (s : State) (m : Mode) : (routed s m).ctr0M = s.ctr0M := by
  unfold routed; split <;> rfl
@[simp] theorem routed_key (s : State) (m : Mode) : (routed s m).key = s.key := by
  unfold routed; split <;> rfl
@[simp] theorem routed_state (s : State) (m : Mode) : (routed s m).state = s.state := by
  unfold routed; split <;> rfl
@[simp] theorem routed_iv (s : State) (m : Mode) : (routed s m).iv = s.iv := by
  unfold routed; split <;> rfl
@[simp] theorem routed_nonce (s : State) (m : Mode) : (routed s m).nonce = s.nonce := by
  unfold routed; split <;> rfl
@[simp] theorem routed_ctr0 (s : State) (m : Mode) : (routed s m).ctr0 = s.ctr0 := by
  unfold routed; split <;> rfl
@[simp] theorem routed_chain (s : State) (m : Mode) : (routed s m).chain = s.chain := by
  unfold routed; split <;> rfl
@[simp] theorem routed_ctrcur (s : State) (m : Mode) : (routed s m).ctrcur = s.ctrcur := by
  unfold routed; split <;> rfl
@[simp] theorem routed_rk (s : State) (m : Mode) : (routed s m).rk = s.rk := by
  unfold routed; split <;> rfl
@[simp] theorem routed_tr (s : State) (m : Mode) : (routed s m).tr = s.tr := by
  unfold routed; split <;> rfl
@[simp] theorem routed_ksd (s : State) (m : Mode) : (routed s m).ksd = s.ksd := by
  unfold routed; split <;> rfl
@[simp] theorem routed_gfRes (s : State) (m : Mode) : (routed s m).gfRes = s.gfRes := by
  unfold routed; split <;> rfl
@[simp] theorem routed_routeNode (s : State) (m : Mode) : (routed s m).routeNode = s.routeNode := by
  unfold routed; split <;> rfl
@[simp] theorem routed_nodes (s : State) (m : Mode) : (routed s m).nodes = s.nodes := by
  unfold routed; split <;> rfl
@[simp] theorem routed_edges (s : State) (m : Mode) : (routed s m).edges = s.edges := by
  unfold routed; split <;> rfl
@[simp] theorem routed_mem (s : State) (m : Mode) : (routed s m).mem = s.mem := by
  unfold routed; split <;> rfl
@[simp] theorem routed_pending (s : State) (m : Mode) : (routed s m).pending = s.pending := by
  unfold routed; split <;> rfl
@[simp] theorem routed_resp (s : State) (m : Mode) : (routed s m).resp = s.resp := by
  unfold routed; split <;> rfl
@[simp] theorem routed_wait (s : State) (m : Mode) : (routed s m).wait = s.wait := by
  unfold routed; split <;> rfl
@[simp] theorem routed_draws (s : State) (m : Mode) : (routed s m).draws = s.draws := by
  unfold routed; split <;> rfl
@[simp] theorem routed_inGen (s : State) (m : Mode) : (routed s m).inGen = s.inGen := by
  unfold routed; split <;> rfl
@[simp] theorem routed_outGen (s : State) (m : Mode) : (routed s m).outGen = s.outGen := by
  unfold routed; split <;> rfl

end Sys2Proof.Machine
end

