-- ==== Sys2Proof/Laws/Modes.lean ====
section
/-! SUPPORT. What each instruction's pseudocode can answer: one law for the guarded commands, one for the mode
commands and one for ROUTE and RUN. -/

namespace Sys2Proof.Machine

open Sys2Proof.Safety

/-- All that a guarded command can do: complete with its result, every check passed, or raise one of its
checks' errors. -/
theorem finish_guarded_cases {s r t : State} {l : List (Option CmdError)}
    (h : finish s (guarded l r) = .next t) :
    (t = completeOk r ∧ ∀ c ∈ l, c = none) ∨ ∃ e, some e ∈ l ∧ t = raiseError s e := by
  rcases guarded_cases l r with ⟨hr, hl⟩ | ⟨e, he, hr⟩ <;> rw [hr] at h <;> cases h
  · exact .inl ⟨rfl, hl⟩
  · exact .inr ⟨e, he, rfl⟩

/-- The result of a mode command on `s` with cipher `c`: output `l`, CHAIN and CTRCUR. -/
def modeResult (s : State) (c : Cipher) (l : List Byte) (chain : Block) (ctrcur : Half) : State :=
  { writeOutput s l with rk := cipherRk c s, chain := chain, ctrcur := ctrcur }

/-- What a mode command's pseudocode can answer: IllegalCommand for a refused CIPHER, another error it may raise, or
a result no longer than the message and one block of padding. -/
def ModeAnswer (s : State) (es : List CmdError) (r : Except CmdError State) : Prop :=
  (ctrlCipher s = none ∧ r = .error .illegalCommand) ∨ (∃ e, e ∈ es ∧ r = .error e) ∨
    ∃ (c : Cipher) (l : List Byte) (chain : Block) (ctrcur : Half), ctrlCipher s = some c ∧
      s.len.toNat ≤ s.cfg.msgbufBytes ∧ l.length ≤ s.len.toNat + 16 ∧
      r = .ok (modeResult s c l chain ctrcur)

theorem needLen_none {s : State} (h : needLen s = none) : s.len.toNat ≤ s.cfg.msgbufBytes := by
  by_contra hc
  rw [needLen, failIf_pos _ (by omega)] at h
  cases h

theorem message_length (s : State) : (message s).length = s.len.toNat := readIn_length _ _

theorem padMessage_length (s : State) :
    (padMessage s).length = s.len.toNat + if ctrlPad s then 16 - s.len.toNat % 16 else 0 := by
  unfold padMessage pkcs7Pad
  split <;> simp [message_length]

theorem truncPadded_length (p : TruncPad) (l : List Byte) :
    (truncPadded p l).length = 16 * ((l.length + 15) / 16) := by
  simp only [truncPadded, List.length_append, List.length_replicate]
  omega

theorem bytesOf_wholeBlocks_length (l : List Byte) : (bytesOf (wholeBlocks l)).length ≤ l.length := by
  simp only [wholeBlocks, bytesOf_length, blocksOf_length]
  omega

@[simp] theorem wholeBlocks_length (l : List Byte) : (wholeBlocks l).length = l.length / 16 := by
  simp [wholeBlocks]

@[simp] theorem cbcEncBlocks_length (e : Block → Block) (c : Block) (l : List Block) :
    (cbcEncBlocks e c l).length = l.length := by
  induction l generalizing c with
  | nil => rfl
  | cons x l ih => simp [cbcEncBlocks, ih]

@[simp] theorem cbcDecBlocks_length (d : Block → Block) (c : Block) (l : List Block) :
    (cbcDecBlocks d c l).length = l.length := by
  induction l generalizing c with
  | nil => rfl
  | cons x l ih => simp [cbcDecBlocks, ih]

/-- A strip either is not asked for, cuts the tail named by the last byte, or raises InvalidBlockLength. -/
theorem stripMessage_cases (s : State) (l : List Byte) :
    stripMessage s l = .error .invalidBlockLength ∨
      ∃ n, stripMessage s l = .ok (l.take n) := by
  unfold stripMessage pkcs7Strip
  split
  · simp only
    split
    · exact .inl rfl
    · exact .inr ⟨_, rfl⟩
  · exact .inr ⟨l.length, by rw [List.take_length]⟩

/-- A check in a list of checks that can only raise errors of `es`. -/
theorem ModeAnswer.of_error {s : State} {es : List CmdError} {e : CmdError} (h : e ∈ es) :
    ModeAnswer s es (.error e) := .inr (.inl ⟨e, h, rfl⟩)

theorem failIf_mem {p : Prop} [Decidable p] {e e' : CmdError} (h : some e' = failIf p e) : e' = e := by
  unfold failIf at h
  split at h <;> cases h
  rfl

/-- The errors of the mode commands that read KEY only. -/
abbrev keyErrors : List CmdError := [.invalidBlockLength, .missingInput]

/-- The errors of the mode commands that read IV, or NONCE and CTR0, too. -/
abbrev chainErrors : List CmdError := .invalidKeyMaterial :: keyErrors

theorem need_key_mem {s : State} {e : CmdError} (h : need s .key = some e) : e ∈ keyErrors := by
  rcases need_cases h with rfl | ⟨_, rfl⟩ | ⟨h, _⟩
  · simp
  · simp
  · rcases h with h | h | h <;> cases h

theorem need_mem {s : State} {x : OpReg} {e : CmdError} (h : need s x = some e) : e ∈ chainErrors := by
  rcases need_cases h with rfl | ⟨_, rfl⟩ | ⟨_, rfl⟩ <;> simp

theorem ecbEncBody_answer (s : State) : ModeAnswer s keyErrors (ecbEncBody s) := by
  unfold ecbEncBody
  split
  · exact .inl ⟨by assumption, rfl⟩
  · rename_i c hc
    rcases guarded_cases [need s .key, needLen s, needAlignedEnc s] (modeResult s c
        (bytesOf ((wholeBlocks (padMessage s)).map (blockEnc c s.key))) s.chain s.ctrcur)
      with ⟨h, hl⟩ | ⟨e, he, h⟩
    · refine .inr (.inr ⟨c, _, s.chain, s.ctrcur, hc, needLen_none (hl _ (by simp)), ?_, h⟩)
      have h1 := padMessage_length s
      simp only [bytesOf_length, List.length_map, wholeBlocks_length]
      split at h1 <;> omega
    · refine .inr (.inl ⟨e, ?_, h⟩)
      simp only [List.mem_cons, List.not_mem_nil, or_false] at he
      rcases he with he | he | he
      · exact need_key_mem he.symm
      · simp [failIf_mem he]
      · simp [failIf_mem he]

theorem cbcEncBody_answer (s : State) : ModeAnswer s chainErrors (cbcEncBody s) := by
  unfold cbcEncBody
  split
  · exact .inl ⟨by assumption, rfl⟩
  · rename_i c hc
    rcases guarded_cases [need s .key, need s .iv, needLen s, needAlignedEnc s] (modeResult s c
        (bytesOf (cbcEncBlocks (blockEnc c s.key) s.iv (wholeBlocks (padMessage s))))
        (lastBlock s.iv (cbcEncBlocks (blockEnc c s.key) s.iv (wholeBlocks (padMessage s)))) s.ctrcur)
      with ⟨h, hl⟩ | ⟨e, he, h⟩
    · refine .inr (.inr ⟨c, _, _, s.ctrcur, hc, needLen_none (hl _ (by simp)), ?_, h⟩)
      have h1 := padMessage_length s
      simp only [bytesOf_length, cbcEncBlocks_length, wholeBlocks_length]
      split at h1 <;> omega
    · refine .inr (.inl ⟨e, ?_, h⟩)
      simp only [List.mem_cons, List.not_mem_nil, or_false] at he
      rcases he with he | he | he | he
      · exact need_mem he.symm
      · exact need_mem he.symm
      · simp [failIf_mem he]
      · simp [failIf_mem he]

theorem cbcEncTruncBody_answer (s : State) : ModeAnswer s chainErrors (cbcEncTruncBody s) := by
  unfold cbcEncTruncBody
  split
  · exact .inl ⟨by assumption, rfl⟩
  · rename_i c hc
    rcases guarded_cases [need s .key, need s .iv, needLen s] (modeResult s c
        ((bytesOf (cbcEncBlocks (blockEnc c s.key) s.iv
          (wholeBlocks (truncPadded s.cfg.truncPad (message s))))).take s.len.toNat)
        (lastBlock s.iv (cbcEncBlocks (blockEnc c s.key) s.iv
          (wholeBlocks (truncPadded s.cfg.truncPad (message s))))) s.ctrcur)
      with ⟨h, hl⟩ | ⟨e, he, h⟩
    · refine .inr (.inr ⟨c, _, _, s.ctrcur, hc, needLen_none (hl _ (by simp)), ?_, h⟩)
      simp only [List.length_take]
      omega
    · refine .inr (.inl ⟨e, ?_, h⟩)
      simp only [List.mem_cons, List.not_mem_nil, or_false] at he
      rcases he with he | he | he
      · exact need_mem he.symm
      · exact need_mem he.symm
      · simp [failIf_mem he]

theorem ctrBody_answer (s : State) : ModeAnswer s chainErrors (ctrBody s) := by
  unfold ctrBody
  split
  · exact .inl ⟨by assumption, rfl⟩
  · rename_i c hc
    rcases guarded_cases [need s .key, need s .nonce, need s .ctr0, needLen s] (modeResult s c
        (List.zipWith (· ^^^ ·) (message s) (keystream c s ((s.len.toNat + 15) / 16))) s.chain
        (halfOfBits (ctrValue s ((s.len.toNat + 15) / 16))))
      with ⟨h, hl⟩ | ⟨e, he, h⟩
    · refine .inr (.inr ⟨c, _, s.chain, _, hc, needLen_none (hl _ (by simp)), ?_, h⟩)
      simp only [List.length_zipWith, message_length]
      omega
    · refine .inr (.inl ⟨e, ?_, h⟩)
      simp only [List.mem_cons, List.not_mem_nil, or_false] at he
      rcases he with he | he | he | he
      · exact need_mem he.symm
      · exact need_mem he.symm
      · exact need_mem he.symm
      · simp [failIf_mem he]

/-- What a decrypting command answers once its checks passed. -/
theorem decResult_answer (c : Cipher) (s : State) (plain : List Byte) (chain : Block) {es : List CmdError}
    (hc : ctrlCipher s = some c) (hlen : s.len.toNat ≤ s.cfg.msgbufBytes)
    (hl : plain.length ≤ s.len.toNat + 16) (he : CmdError.invalidBlockLength ∈ es) :
    ModeAnswer s es (decResult c s plain chain) := by
  unfold decResult
  rcases stripMessage_cases s plain with h | ⟨n, h⟩ <;> rw [h]
  · exact .of_error he
  · refine .inr (.inr ⟨c, plain.take n, chain, s.ctrcur, hc, hlen, ?_, rfl⟩)
    rw [List.length_take]
    omega

theorem ecbDecBody_answer (s : State) : ModeAnswer s keyErrors (ecbDecBody s) := by
  unfold ecbDecBody
  split
  · exact .inl ⟨by assumption, rfl⟩
  · rename_i c hc
    rcases guarded_cases [need s .key, needLen s, needAlignedDec s, needNonempty s] () with ⟨h, hl⟩ | ⟨e, he, h⟩
    · rw [h]
      refine decResult_answer c s _ _ hc (needLen_none (hl _ (by simp))) ?_ (by simp)
      simp only [bytesOf_length, List.length_map, wholeBlocks_length, message_length]
      omega
    · rw [h]
      refine .of_error ?_
      simp only [List.mem_cons, List.not_mem_nil, or_false] at he
      rcases he with he | he | he | he
      · exact need_key_mem he.symm
      · simp [failIf_mem he]
      · simp [failIf_mem he]
      · simp [failIf_mem he]

theorem cbcDecBody_answer (s : State) : ModeAnswer s chainErrors (cbcDecBody s) := by
  unfold cbcDecBody
  split
  · exact .inl ⟨by assumption, rfl⟩
  · rename_i c hc
    simp only
    rcases guarded_cases [need s .key, need s .iv, needLen s, needAlignedDec s, needNonempty s] () with
      ⟨h, hl⟩ | ⟨e, he, h⟩
    · rw [h]
      refine decResult_answer c s _ _ hc (needLen_none (hl _ (by simp))) ?_ (by simp)
      simp only [bytesOf_length, cbcDecBlocks_length, wholeBlocks_length, message_length]
      omega
    · rw [h]
      refine .of_error ?_
      simp only [List.mem_cons, List.not_mem_nil, or_false] at he
      rcases he with he | he | he | he | he
      · exact need_mem he.symm
      · exact need_mem he.symm
      · simp [failIf_mem he]
      · simp [failIf_mem he]
      · simp [failIf_mem he]

theorem ModeAnswer.mono {s : State} {es es' : List CmdError} {r : Except CmdError State}
    (h : ModeAnswer s es r) (hs : ∀ e ∈ es, e ∈ es') : ModeAnswer s es' r :=
  h.imp id (Or.imp (fun ⟨e, he, hr⟩ => ⟨e, hs e he, hr⟩) id)

/-- All that the command RUN dispatches to can answer. -/
theorem runBody_answer (s : State) (mode : Mode) : ModeAnswer s chainErrors (runBody s mode) := by
  have key (r) (h : ModeAnswer s keyErrors r) : ModeAnswer s chainErrors r :=
    h.mono fun e he => List.mem_cons_of_mem _ he
  cases mode <;> simp only [runBody]
  · split
    · exact key _ (ecbDecBody_answer s)
    · exact key _ (ecbEncBody_answer s)
  · split
    · exact cbcDecBody_answer s
    · split
      · exact cbcEncTruncBody_answer s
      · exact cbcEncBody_answer s
  · exact ctrBody_answer s

/-- All that a mode command can do: raise one of its errors and write no result, or complete with one. -/
theorem finish_mode_cases {s u t : State} {es : List CmdError} {r : Except CmdError State}
    (ha : ModeAnswer s es r) (h : finish u r = .next t) :
    (ctrlCipher s = none ∧ t = raiseError u .illegalCommand) ∨ (∃ e, e ∈ es ∧ t = raiseError u e) ∨
      ∃ (c : Cipher) (l : List Byte) (chain : Block) (ctrcur : Half), ctrlCipher s = some c ∧
        s.len.toNat ≤ s.cfg.msgbufBytes ∧ l.length ≤ s.len.toNat + 16 ∧
        t = completeOk (modeResult s c l chain ctrcur) := by
  rcases ha with ⟨hc, rfl⟩ | ⟨e, he, rfl⟩ | ⟨c, l, chain, ctrcur, hc, hn, hl, rfl⟩ <;> cases h
  · exact .inl ⟨hc, rfl⟩
  · exact .inr (.inl ⟨e, he, rfl⟩)
  · exact .inr (.inr ⟨c, l, chain, ctrcur, hc, hn, hl, rfl⟩)

theorem kindIn_iff (s : State) (n : Nat) (ks : List NodeKind) :
    kindIn s n ks = true ↔ ∃ k ∈ ks, nodeKind s n = some k := by
  unfold kindIn
  cases nodeKind s n <;> simp

/-- All that `resolve` can answer: the producer at the role's port, nothing for want of a combine node, or what the
inputs of the combine node give (47_router.md R294). -/
theorem resolve_cases (s : State) (c : Nat) (role : Role) :
    (∃ p, firstIn s c (rolePort role) = some p ∧ p ≠ c ∧ kindIn s p (roleKinds role) = true ∧
      resolve s c role = some (p, none)) ∨
    (resolve s c role = none ∧ hopNode s c role = none) ∨
    ∃ m, hopNode s c role = some m ∧ nodeKind s m = some .combineXor ∧
      resolve s c role = (firstInKind s m (roleKinds role) c).map (fun t => (t, some m)) := by
  have hop : ∀ m, hopNode s c role = some m → nodeKind s m = some .combineXor := by
    have hx : ∀ m, hopNode.xorHop s c = some m → nodeKind s m = some .combineXor := by
      intro m h
      unfold hopNode.xorHop at h
      split at h
      · split at h
        · cases h; assumption
        · cases h
      · cases h
    intro m h
    unfold hopNode at h
    split at h
    · split at h
      · cases h; assumption
      · exact hx m h
    · exact hx m h
  have key : ∀ r, r = resolveHop s c role → (r = none ∧ hopNode s c role = none) ∨
      ∃ m, hopNode s c role = some m ∧ nodeKind s m = some .combineXor ∧
        r = (firstInKind s m (roleKinds role) c).map (fun t => (t, some m)) := by
    rintro r rfl
    unfold resolveHop
    cases h : hopNode s c role with
    | none => exact .inl ⟨rfl, rfl⟩
    | some m => exact .inr ⟨m, rfl, hop m h, rfl⟩
  unfold resolve
  split
  · split
    · exact .inl ⟨_, by assumption, (by assumption : _ ∧ _).1, (by assumption : _ ∧ _).2, rfl⟩
    · exact .inr (key _ rfl)
  · exact .inr (key _ rfl)

/-- All that ROUTE can do: IllegalCommand with nothing written, or its results kept, with or without
MissingInput. -/
theorem execRoute_cases {s t : State} (h : execRoute s = .next t) :
    (ctrlMode s = none ∧ t = raiseError s .illegalCommand) ∨
      ∃ mode, ctrlMode s = some mode ∧
        ((routeOk s mode = true ∧ t = completeOk (routed s mode)) ∨
          (routeOk s mode = false ∧ t = raiseError (routed s mode) .missingInput)) := by
  unfold execRoute at h
  cases hm : ctrlMode s with
  | none => rw [hm] at h; cases h; exact .inl ⟨rfl, rfl⟩
  | some mode =>
    rw [hm] at h
    refine .inr ⟨mode, rfl, ?_⟩
    cases hr : routeOk s mode <;> simp only [hr] at h <;> cases h
    · exact .inr ⟨rfl, rfl⟩
    · exact .inl ⟨rfl, rfl⟩

/-- All that RUN can do: IllegalCommand with nothing written, the route's results with an error, or the results of
the command it dispatches to. -/
theorem execRun_cases {s t : State} (h : execRun s = .next t) :
    t = raiseError s .illegalCommand ∨
      ∃ mode, ctrlMode s = some mode ∧
        ((∃ e, e ∈ chainErrors ∧ t = raiseError (routed s mode) e) ∨
          ∃ (c : Cipher) (l : List Byte) (chain : Block) (ctrcur : Half), ctrlCipher s = some c ∧
            s.len.toNat ≤ s.cfg.msgbufBytes ∧ l.length ≤ s.len.toNat + 16 ∧
            t = completeOk (modeResult (routed s mode) c l chain ctrcur)) := by
  unfold execRun at h
  cases hm : ctrlMode s with
  | none => rw [hm] at h; cases h; exact .inl rfl
  | some mode =>
    cases hc : ctrlCipher s with
    | none => rw [hm, hc] at h; cases h; exact .inl rfl
    | some c =>
      rw [hm, hc] at h
      refine .inr ⟨mode, rfl, ?_⟩
      simp only at h
      cases hr : routeOk s mode <;> simp only [hr, if_true, if_false, Bool.false_eq_true] at h
      · cases h; exact .inl ⟨_, by simp, rfl⟩
      · rcases finish_mode_cases (runBody_answer (routed s mode) mode) h with ⟨h', _⟩ | h | ⟨c', l, ch, cc, h1, h2, h3, h4⟩
        · rw [ctrlCipher, routed_ctrl, ← ctrlCipher, hc] at h'
          cases h'
        · exact .inl h
        · refine .inr ⟨c', l, ch, cc, ?_, ?_, ?_, h4⟩
          · simp only [ctrlCipher, routed_ctrl] at h1 hc
            exact hc ▸ h1
          · simpa only [routed_len, routed_cfg] using h2
          · simpa only [routed_len] using h3

/-! ### The results of the mode commands -/

theorem modeResult_frame (s : State) (c : Cipher) (l : List Byte) (chain : Block) (ctrcur : Half) :
    modeFrame c s (completeOk (modeResult s c l chain ctrcur)) := by
  constructor
  · cases c <;> rfl
  · intro a ha
    exact inByte_writeOutput s l a ha

theorem modeResult_outLen (s : State) (c : Cipher) (l : List Byte) (chain : Block) (ctrcur : Half)
    (h : l.length < 65536) : (completeOk (modeResult s c l chain ctrcur)).outLen.toNat = l.length := by
  simp only [completeOk_outLen, modeResult, writeOutput_outLen, BitVec.toNat_ofNat]
  omega

theorem modeResult_outByte (s : State) (c : Cipher) (l : List Byte) (chain : Block) (ctrcur : Half) (a : Nat)
    (h : a < l.length) : outByte (completeOk (modeResult s c l chain ctrcur)) a = l[a] :=
  outByte_writeOutput s l a h

/-- The output of a mode command is what its pseudocode stores. -/
theorem modeResult_output (s : State) (c : Cipher) (l : List Byte) (chain : Block) (ctrcur : Half)
    (h : l.length < 65536) : output (completeOk (modeResult s c l chain ctrcur)) = l := by
  unfold output
  rw [modeResult_outLen _ _ _ _ _ h]
  apply List.ext_getElem
  · simp
  · intro a h1 h2
    rw [readOut_getElem]
    exact outByte_writeOutput s l a h2

theorem wholeBlocks_getElem (l : List Byte) (i : Nat) (h : i < (wholeBlocks l).length) :
    (wholeBlocks l)[i] = blockAt l i :=
  blocksOf_getElem _ _ _ h

/-- Block `i` of CBC encryption, by the one before it. -/
theorem cbcEncBlocks_getElem (e : Block → Block) (c : Block) (l : List Block) (i : Nat)
    (h : i < (cbcEncBlocks e c l).length) :
    (cbcEncBlocks e c l)[i] = e ((l[i]'(by simpa using h)).xor
      (if i = 0 then c else (cbcEncBlocks e c l).getD (i - 1) c)) := by
  induction l generalizing c i with
  | nil => simp [cbcEncBlocks] at h
  | cons x l ih =>
    cases i with
    | zero => simp [cbcEncBlocks]
    | succ i =>
      simp only [cbcEncBlocks, List.getElem_cons_succ]
      rw [ih]
      simp only [Nat.add_sub_cancel]
      congr 2
      cases i with
      | zero => simp
      | succ i =>
        simp only [cbcEncBlocks, List.length_cons, cbcEncBlocks_length, Nat.add_lt_add_iff_right] at h
        simp [List.getElem?_eq_getElem (show i < (cbcEncBlocks e (e (x.xor c)) l).length by simp; omega)]

/-- Block `i` of CBC decryption. -/
theorem cbcDecBlocks_getElem (d : Block → Block) (c : Block) (l : List Block) (i : Nat)
    (h : i < (cbcDecBlocks d c l).length) :
    (cbcDecBlocks d c l)[i] = (d (l[i]'(by simpa using h))).xor (if i = 0 then c else l.getD (i - 1) c) := by
  induction l generalizing c i with
  | nil => simp [cbcDecBlocks] at h
  | cons x l ih =>
    cases i with
    | zero => simp [cbcDecBlocks]
    | succ i =>
      simp only [cbcDecBlocks, List.getElem_cons_succ]
      rw [ih]
      simp only [Nat.add_sub_cancel]
      congr 1
      cases i with
      | zero => simp
      | succ i =>
        simp only [cbcDecBlocks, List.length_cons, cbcDecBlocks_length, Nat.add_lt_add_iff_right] at h
        simp [List.getElem?_eq_getElem (show i < l.length by omega)]

/-- What a decrypting command answers, by the number of bytes its last byte says to strip. -/
theorem decResult_strip (s : State) (c : Cipher) (plain : List Byte) (chain : Block) (p : Nat)
    (hp : p = if ctrlPad s then (plain.getD (plain.length - 1) 0).toNat else 0) :
    decResult c s plain chain =
      if plain.length < p then .error .invalidBlockLength
      else .ok (modeResult s c (plain.take (plain.length - p)) chain s.ctrcur) := by
  have hg : plain.getLast?.getD 0 = plain.getD (plain.length - 1) 0 := by
    rw [List.getLast?_eq_getElem?, List.getD_eq_getElem?_getD]
  unfold decResult stripMessage pkcs7Strip
  by_cases h : ctrlPad s = true
  · simp only [h, if_true] at hp ⊢
    rw [hg, ← hp]
    by_cases h' : plain.length < p
    · rw [if_pos h', if_pos h']
    · rw [if_neg h', if_neg h']
      rfl
  · simp only [h, if_false, Bool.false_eq_true] at hp ⊢
    subst hp
    rw [if_neg (by omega), Nat.sub_zero, List.take_length]
    rfl

end Sys2Proof.Machine
end

