-- ==== Sys2Proof/Laws/Exec.lean ====
section
/-! SUPPORT. What one command can do, said once: its effect by shape, and the three ways it completes. -/

namespace Sys2Proof.Machine

/-- The commands that write STATE and no other result, RK included. -/
abbrev stateCommands : List Instr := [.subb, .shrow, .mixcol, .invsubb, .invshrow, .invmixcol, .xordemo]

/-- The mode commands. -/
abbrev modeCommands : List Instr := [.ecbenc, .ecbdec, .cbcenc, .cbcenct, .cbcdec, .ctrx]

/-- `Effect s i r`: `r` has the shape of the results of the command `i` on `s`, before its completion flags. -/
inductive Effect (s : State) : Instr → State → Prop
  | nop : Effect s .nop s
  | clear : Effect s .clear { s with
      keyM := 0, stateM := 0, ivM := 0, nonceM := 0, ctr0M := 0, outLen := 0
      status := { s.status with errSticky := false, writeIgnored := false } }
  | xfer (h : s.outLen.toNat ≤ s.cfg.msgbufBytes) :
      Effect s .xfer { writeIn s (readOut s s.outLen.toNat) with len := s.outLen }
  | expand : Effect s .expand (withRk s)
  | kstep (r : BitVec 4) (d : KeyDetail) : Effect s (.kstep r) { withRk s with ksd := d }
  | ark (r : BitVec 4) (x : Block) : Effect s (.ark r) { withRk s with state := x }
  | state (i : Instr) (x : Block) (h : i ∈ stateCommands) : Effect s i { s with state := x }
  | cipher (i : Instr) (x : Block) (h : i ∈ [Instr.encb, .decb]) : Effect s i { withRk s with state := x }
  | trace (r : BitVec 4) (d : TraceRegs) (k : KeyDetail) :
      Effect s (.trace r) { withRk s with tr := d, ksd := k }
  | xtime (a x : Byte) : Effect s (.xtime a) { s with gfRes := x }
  | gmul (a b x : Byte) : Effect s (.gmul a b) { s with gfRes := x }
  | mode (i : Instr) (c : Cipher) (l : List Byte) (chain : Block) (ctrcur : Half) (h : i ∈ modeCommands)
      (hc : ctrlCipher s = some c) (hn : s.len.toNat ≤ s.cfg.msgbufBytes)
      (hl : l.length ≤ s.len.toNat + 16) : Effect s i (modeResult s c l chain ctrcur)
  | route (m : Mode) : Effect s .route (routed s m)
  | run (m : Mode) (c : Cipher) (l : List Byte) (chain : Block) (ctrcur : Half)
      (hc : ctrlCipher s = some c) (hn : s.len.toNat ≤ s.cfg.msgbufBytes)
      (hl : l.length ≤ s.len.toNat + 16) : Effect s .run (modeResult (routed s m) c l chain ctrcur)

/-- All that a command can do: complete without error, raise an error and write no result, or, ROUTE and RUN only,
raise an error other than IllegalCommand and keep the route's results. -/
theorem exec_cases {i : Instr} {s t : State} (h : exec i s = .next t) :
    (∃ r, Effect s i r ∧ t = completeOk r) ∨ (∃ e, t = raiseError s e) ∨
      ∃ e m, (i = .route ∨ i = .run) ∧ e ≠ .illegalCommand ∧ t = raiseError (routed s m) e := by
  have md : ∀ es b, ModeAnswer s es b → finish s b = .next t → i ∈ modeCommands →
      (∃ r, Effect s i r ∧ t = completeOk r) ∨ (∃ e, t = raiseError s e) := by
    intro es b hb hf hi
    rcases finish_mode_cases hb hf with ⟨_, h⟩ | ⟨e, _, h⟩ | ⟨c, l, ch, cc, h1, h2, h3, h4⟩
    · exact .inr ⟨_, h⟩
    · exact .inr ⟨e, h⟩
    · exact .inl ⟨_, .mode _ c l ch cc hi h1 h2 h3, h4⟩
  have gd : ∀ l r, finish s (guarded l r) = .next t → ((∀ c ∈ l, c = none) → Effect s i r) →
      (∃ r, Effect s i r ∧ t = completeOk r) ∨ (∃ e, t = raiseError s e) := by
    intro l r hf hr
    rcases finish_guarded_cases hf with ⟨h1, h2⟩ | ⟨e, h1, h2⟩
    · exact .inl ⟨_, hr h2, h1⟩
    · exact .inr ⟨e, h2⟩
  cases i <;> simp only [exec] at h
  case nop => cases h; exact .inl ⟨_, .nop, rfl⟩
  case clear => cases h; exact .inl ⟨_, .clear, rfl⟩
  case xfer =>
    rcases gd _ _ h (fun hl => .xfer (by
      have := hl _ (List.mem_singleton_self _)
      by_contra hc; rw [failIf_pos _ (by omega)] at this; cases this)) with h | h
    · exact .inl h
    · exact .inr (.inl h)
  case expand => exact (gd _ _ h (fun _ => .expand)).imp id .inl
  case kstep r => exact (gd _ _ h (fun _ => .kstep r _)).imp id .inl
  case ark r => exact (gd _ _ h (fun _ => .ark r _)).imp id .inl
  case subb => exact (gd _ _ h (fun _ => .state _ _ (by simp [stateCommands]))).imp id .inl
  case shrow => exact (gd _ _ h (fun _ => .state _ _ (by simp [stateCommands]))).imp id .inl
  case mixcol => exact (gd _ _ h (fun _ => .state _ _ (by simp [stateCommands]))).imp id .inl
  case invsubb => exact (gd _ _ h (fun _ => .state _ _ (by simp [stateCommands]))).imp id .inl
  case invshrow => exact (gd _ _ h (fun _ => .state _ _ (by simp [stateCommands]))).imp id .inl
  case invmixcol => exact (gd _ _ h (fun _ => .state _ _ (by simp [stateCommands]))).imp id .inl
  case xordemo => exact (gd _ _ h (fun _ => .state _ _ (by simp [stateCommands]))).imp id .inl
  case encb => exact (gd _ _ h (fun _ => .cipher _ _ (by simp))).imp id .inl
  case decb => exact (gd _ _ h (fun _ => .cipher _ _ (by simp))).imp id .inl
  case trace r => exact (gd _ _ h (fun _ => .trace r _ _)).imp id .inl
  case xtime a => cases h; exact .inl ⟨_, .xtime _ _, rfl⟩
  case gmul a b => cases h; exact .inl ⟨_, .gmul _ _ _, rfl⟩
  case ecbenc => exact (md _ _ (ecbEncBody_answer s) h (by simp [modeCommands])).imp id .inl
  case ecbdec => exact (md _ _ (ecbDecBody_answer s) h (by simp [modeCommands])).imp id .inl
  case cbcenc => exact (md _ _ (cbcEncBody_answer s) h (by simp [modeCommands])).imp id .inl
  case cbcenct => exact (md _ _ (cbcEncTruncBody_answer s) h (by simp [modeCommands])).imp id .inl
  case cbcdec => exact (md _ _ (cbcDecBody_answer s) h (by simp [modeCommands])).imp id .inl
  case ctrx => exact (md _ _ (ctrBody_answer s) h (by simp [modeCommands])).imp id .inl
  case route =>
    rcases execRoute_cases h with ⟨_, h⟩ | ⟨m, hm, ⟨_, h⟩ | ⟨_, h⟩⟩
    · exact .inr (.inl ⟨_, h⟩)
    · exact .inl ⟨_, .route m, h⟩
    · exact .inr (.inr ⟨_, m, by simp, by simp, h⟩)
  case run =>
    rcases execRun_cases h with h | ⟨m, hm, ⟨e, he, h⟩ | ⟨c, l, ch, cc, h1, h2, h3, h⟩⟩
    · exact .inr (.inl ⟨_, h⟩)
    · exact .inr (.inr ⟨e, m, by simp, by rintro rfl; simp at he, h⟩)
    · exact .inl ⟨_, .run m c l ch cc h1 h2 h3, h⟩

end Sys2Proof.Machine
end

