-- ==== Sys2Proof/Laws/PerInstr.lean ====
section
/-! SUPPORT. Statements for every command, one lemma per constructor: the fields of the encoded word. -/

namespace Sys2Proof.Laws.EncodedFields

/-- Every field of the encoded word holds what 30_encoding.md R110 puts there; RSV is 0. -/
def Statement (i : Instr) : Prop :=
  fieldOp (encode i) = opcode i ∧ fieldR (encode i) = operandR i ∧ fieldRsv (encode i) = 0 ∧
    fieldA (encode i) = operandA i ∧ fieldB (encode i) = operandB i

/-- The fields of a word put together from them. -/
theorem fields (b a : Byte) (r : BitVec 4) (op : BitVec 8) :
    fieldOp (b ++ a ++ (0 : BitVec 4) ++ r ++ op) = op ∧ fieldR (b ++ a ++ (0 : BitVec 4) ++ r ++ op) = r ∧
      fieldRsv (b ++ a ++ (0 : BitVec 4) ++ r ++ op) = 0 ∧ fieldA (b ++ a ++ (0 : BitVec 4) ++ r ++ op) = a ∧
      fieldB (b ++ a ++ (0 : BitVec 4) ++ r ++ op) = b := by
  unfold fieldOp fieldR fieldRsv fieldA fieldB
  refine ⟨?_, ?_, ?_, ?_, ?_⟩ <;> ext k hk <;> simp [BitVec.getElem_extractLsb'] <;> grind

theorem nop : Statement .nop := fields _ _ _ _

theorem clear : Statement .clear := fields _ _ _ _

theorem xfer : Statement .xfer := fields _ _ _ _

theorem expand : Statement .expand := fields _ _ _ _

theorem kstep (r : BitVec 4) : Statement (.kstep r) := fields _ _ _ _

theorem ark (r : BitVec 4) : Statement (.ark r) := fields _ _ _ _

theorem subb : Statement .subb := fields _ _ _ _

theorem shrow : Statement .shrow := fields _ _ _ _

theorem mixcol : Statement .mixcol := fields _ _ _ _

theorem invsubb : Statement .invsubb := fields _ _ _ _

theorem invshrow : Statement .invshrow := fields _ _ _ _

theorem invmixcol : Statement .invmixcol := fields _ _ _ _

theorem encb : Statement .encb := fields _ _ _ _

theorem decb : Statement .decb := fields _ _ _ _

theorem trace (r : BitVec 4) : Statement (.trace r) := fields _ _ _ _

theorem xtime (a : Byte) : Statement (.xtime a) := fields _ _ _ _

theorem gmul (a b : Byte) : Statement (.gmul a b) := fields _ _ _ _

theorem ecbenc : Statement .ecbenc := fields _ _ _ _

theorem ecbdec : Statement .ecbdec := fields _ _ _ _

theorem cbcenc : Statement .cbcenc := fields _ _ _ _

theorem cbcenct : Statement .cbcenct := fields _ _ _ _

theorem cbcdec : Statement .cbcdec := fields _ _ _ _

theorem ctrx : Statement .ctrx := fields _ _ _ _

theorem xordemo : Statement .xordemo := fields _ _ _ _

theorem route : Statement .route := fields _ _ _ _

theorem run : Statement .run := fields _ _ _ _

end Sys2Proof.Laws.EncodedFields
end

