-- ==== Sys2Proof/Laws/Step.lean ====
section
/-! SUPPORT. One law for each shape of a step, and the byte lanes of host words, registers and masks. -/

namespace Sys2Proof.Machine

open Sys2Proof.Safety

/-! ### The step -/

/-- A step that does not complete a command is the outside world's next event. -/
theorem step_bus {s : State} (h : ¬ completes s) : step s = .next (busStep (waited s)) := by
  unfold step completes waited at *
  by_cases hb : s.status.busy = true
  · simp only [hb, true_and] at h
    obtain ⟨n, hn⟩ := Nat.exists_eq_succ_of_ne_zero h
    simp [hb, hn]
  · simp [hb]

/-- A step whose command is due completes it. -/
theorem step_complete {s : State} (h : completes s) : step s = complete s := by
  unfold step
  rw [if_pos h.1, h.2]

@[simp] theorem waited_pending (s : State) : (waited s).pending = s.pending := by
  unfold waited; split <;> rfl

@[simp] theorem waited_status (s : State) : (waited s).status = s.status := by
  unfold waited; split <;> rfl

@[simp] theorem waited_cfg (s : State) : (waited s).cfg = s.cfg := by
  unfold waited; split <;> rfl

theorem waited_idle {s : State} (h : s.status.busy = false) : waited s = s := by
  simp [waited, h]

theorem not_completes_idle {s : State} (h : s.status.busy = false) : ¬ completes s := by
  simp [completes, h]

/-- A step while idle is the next event, if there is one. -/
theorem step_idle {s : State} {e : BusEvent} {rest : List BusEvent} (h : s.status.busy = false)
    (hp : s.pending = e :: rest) : step s = .next (busEvent { s with pending := rest } e) := by
  rw [step_bus (not_completes_idle h), waited_idle h]
  simp [busStep, hp]

/-- An aligned write while idle writes the location the address map names. -/
theorem step_idle_write {s : State} {a : BitVec 16} {d : HWord} {strb : BitVec 4} {rest : List BusEvent}
    (h : s.status.busy = false) (hp : s.pending = .write a d strb :: rest) (ha : a.toNat % 4 = 0) :
    step s = .next { writeLoc { s with pending := rest } d strb (locOf s.cfg a.toNat) with
      resp := some ⟨.okay, none⟩ } := by
  rw [step_idle h hp]
  simp [busEvent, hostWrite, ha, h]

/-- An aligned read while idle answers what the location the address map names holds. -/
theorem step_idle_read {s : State} {a : BitVec 16} {rest : List BusEvent} (h : s.status.busy = false)
    (hp : s.pending = .read a :: rest) (ha : a.toNat % 4 = 0) :
    step s = .next { s with
      pending := rest
      resp := some ⟨.okay, some (readLoc { s with pending := rest } (locOf s.cfg a.toNat))⟩ } := by
  rw [step_idle h hp]
  simp [busEvent, hostRead, ha, h]

/-! ### Byte lanes -/

theorem wordOfBits_byte (v : HWord) (k : Nat) (h : k < 4) : wordByte (wordOfBits v) k = lane v k := by
  interval_cases k <;> rfl

theorem laneMerge_byte (old new : Word) (strb : BitVec 4) (k : Nat) (h : k < 4) :
    wordByte (laneMerge old new strb) k = if strb.getLsbD k then wordByte new k else wordByte old k := by
  interval_cases k <;> rfl

/-- The lanes of a host word are all of it. -/
theorem wordToBits_wordOfBits (v : HWord) : wordToBits (wordOfBits v) = v := by
  apply BitVec.eq_of_getLsbD_eq
  intro j hj
  have h : ∀ x y z w : Byte, (wordToBits ⟨x, y, z, w⟩).getLsbD j =
      if j < 8 then w.getLsbD j else if j - 8 < 8 then z.getLsbD (j - 8)
      else if j - 8 - 8 < 8 then y.getLsbD (j - 8 - 8) else x.getLsbD (j - 8 - 8 - 8) := by
    intro x y z w
    rw [wordToBits]
    erw [BitVec.getLsbD_append, BitVec.getLsbD_append, BitVec.getLsbD_append]
  rw [wordOfBits, h]
  simp only [BitVec.getLsbD_extractLsb']
  split
  · simp only [Nat.zero_add, decide_true, Bool.true_and, *]
  · split
    · simp only [decide_true, Bool.true_and, show 8 + (j - 8) = j by omega, *]
    · split
      · simp only [decide_true, Bool.true_and, show 16 + (j - 8 - 8) = j by omega, *]
      · simp only [decide_true, Bool.true_and, show 24 + (j - 8 - 8 - 8) = j by omega,
          show j - 8 - 8 - 8 < 8 by omega]

/-- A write with every strobe replaces the whole word. -/
theorem laneMergeBits_full (old new : HWord) : laneMergeBits old new 0xF = new :=
  (show laneMergeBits old new 0xF = wordToBits (wordOfBits new) from rfl).trans (wordToBits_wordOfBits new)

/-- Byte lane `k` of a word's host value is its byte `k`. -/
theorem lane_wordToBits (w : Word) (k : Nat) (h : k < 4) : lane (wordToBits w) k = wordByte w k := by
  have hw : wordOfBits (wordToBits w) = w := by
    cases w
    unfold wordToBits wordOfBits
    congr 1 <;> ext j hj <;> simp <;> grind
  rw [← wordOfBits_byte _ _ h, hw]

/-- A write stores the enabled lanes and keeps the others. -/
theorem laneMergeBits_lane (old new : HWord) (strb : BitVec 4) (k : Nat) (h : k < 4) :
    lane (laneMergeBits old new strb) k = if strb.getLsbD k then lane new k else lane old k := by
  unfold laneMergeBits
  rw [lane_wordToBits _ _ h, laneMerge_byte _ _ _ _ h, wordOfBits_byte _ _ h, wordOfBits_byte _ _ h]

theorem blockSetWord_byte (x : Block) (w : Word) (i k : Nat) (hi : i < 4) (hk : k < 16) :
    blockByte (blockSetWord x w i) k = if k / 4 = i then wordByte w (k % 4) else blockByte x k := by
  interval_cases i <;> interval_cases k <;> rfl

/-- A write of word `i` sets the mask bits of its enabled bytes and no other. -/
theorem maskSet_getLsbD {n : Nat} (m : BitVec n) (strb : BitVec 4) (i k : Nat) (hk : k < n) :
    (maskSet m strb i).getLsbD k = (m.getLsbD k || (decide (k / 4 = i) && strb.getLsbD (k % 4))) := by
  simp only [maskSet, BitVec.getLsbD_or, BitVec.getLsbD_shiftLeft, hk, decide_true, Bool.true_and]
  congr 1
  by_cases h : k / 4 = i
  · simp [h, show ¬ k < 4 * i by omega, show k - 4 * i = k % 4 by omega, show k % 4 < n by omega]
  · simp only [h, decide_false, Bool.false_and, Bool.and_eq_false_imp, Bool.not_eq_true',
      decide_eq_false_iff_not]
    intro h1
    rw [BitVec.getLsbD_setWidth, BitVec.getLsbD_of_ge _ _ (by omega), Bool.and_false]

/-- The bytes after one lane of a buffer write. -/
theorem memByte_putLane (m : Memory) (a : Nat) (b : Byte) (on : Bool) (g c : Nat) :
    memByte (putLane m a b on) g c = if a = c ∧ on = true then b else memByte m g c := by
  unfold putLane memByte
  cases on
  · simp
  · simp only [if_true, cellsGet_put, and_true]
    split <;> simp

end Sys2Proof.Machine
end

