-- ==== Sys2Proof/Tests/Slice0.lean ====
section
/-! SUPPORT. The model's own tests: ill-formed commands, the words of every command, one or two vectors of
95_test_vectors.md per command, and for each statement with hypotheses a state that meets them. -/

namespace Sys2Proof.Tests

open Sys2Proof.Machine Sys2Proof.Safety

/- One test after another: a test that waits for the kernel holds a thread and its stack, and all of them at once
would not fit the memory the check allows. -/
set_option Elab.async false

/-! ### Helpers -/

/-- KEY, STATE, IV, NONCE and CTR0 loaded with the common inputs of 95_test_vectors.md section 2.7, STATE with the
plaintext of section 1.1. -/
def loaded : State := { State.reset with
  key := blockOfBits 0x2b7e151628aed2a6abf7158809cf4f3c, keyM := 0xFFFF
  state := blockOfBits 0x3243f6a8885a308d313198a2e0370734, stateM := 0xFFFF
  iv := blockOfBits 0x000102030405060708090a0b0c0d0e0f, ivM := 0xFFFF
  nonce := halfOfBits 0xf0f1f2f3f4f5f6f7, nonceM := 0xFF
  ctr0 := halfOfBits 0xf8f9fafbfcfdfeff, ctr0M := 0xFF }

/-- `loaded` with another STATE. -/
def withState (v : BitVec 128) : State := { loaded with state := blockOfBits v }

/-- `loaded` with CTRL and a message of bytes of the block `v`, then of `w`. -/
def withMessage (ctrl : BitVec 8) (n : Nat) (v w : BitVec 128) : State :=
  { loaded with
    ctrl := ctrl
    len := BitVec.ofNat 16 n
    mem := memWrite [] msgInBase ((blockBytes (blockOfBits v) ++ blockBytes (blockOfBits w)).take n) }

/-- A command in flight whose completion is due. -/
def due (w : HWord) : State := { loaded with cmd := w, status := { loaded.status with busy := true } }

/-- The reset state with one event issued. -/
def issued (e : BusEvent) : State := { State.reset with pending := [e] }

/-- A busy state with one step to wait and one event issued. -/
def busyIssued (e : BusEvent) : State :=
  { due 0 with wait := 1, pending := [e] }

/-- What `f` sees of a next state. -/
def after {α : Type} (o : Host.Outcome State Fault Refusal) (f : State → α) : Option α :=
  match o with
  | .next t => some (f t)
  | .fault _ => none
  | .refused _ => none

/-- The output of a mode command, its OUT_LEN and its error code. -/
def outputAndError (t : State) : List Byte × BitVec 8 := (output t, t.errcode)

/-- The first `n` bytes of the blocks `v` and `w`. -/
def bytes (n : Nat) (v w : BitVec 128) : List Byte :=
  (blockBytes (blockOfBits v) ++ blockBytes (blockOfBits w)).take n

/-- A graph on ROUTE_NODE `c` in the mode of `ctrl`. -/
def graph (ctrl : BitVec 8) (c : BitVec 8) (ns es : Table) : State :=
  { withMessage ctrl 16 0x6bc1bee22e409f96e93d7e117393172a 0 with routeNode := c, nodes := ns, edges := es }

/-- Graph G1 of 95_test_vectors.md section 2.8. -/
def graphEcb (ctrl : BitVec 8) : State :=
  graph ctrl 2 [(0, 0x80000000), (1, 0x80000001), (2, 0x80000004), (3, 0x80000006)]
    [(0, 0x80102000), (1, 0x80202001), (2, 0x80503002)]

/-- Graph G2 of 95_test_vectors.md section 2.8. -/
def graphCbc (ctrl : BitVec 8) : State :=
  graph ctrl 4
    [(0, 0x80000000), (1, 0x80000001), (2, 0x80000002), (3, 0x80000005), (4, 0x80000004), (5, 0x80000006)]
    [(0, 0x80103000), (1, 0x80303002), (2, 0x80604003), (3, 0x80204001), (4, 0x80505004)]

/-- Graph G3 of 95_test_vectors.md section 2.8. -/
def graphCtr (ctrl : BitVec 8) : State :=
  graph ctrl 3
    [(0, 0x80000000), (1, 0x80000001), (2, 0x80000003), (3, 0x80000004), (4, 0x80000005), (5, 0x80000006)]
    [(0, 0x80403002), (1, 0x80203001), (2, 0x80504003), (3, 0x80104000), (4, 0x80505004)]

/-! ### WellFormed -/

/-- R113: KSTEP takes R in 1..10. -/
theorem test_wf_kstep_low : (Instr.kstep 0).wf = false := by decide

theorem test_wf_kstep_high : (Instr.kstep 11).wf = false := by decide

/-- R113: ARK takes R in 0..10. -/
theorem test_wf_ark_high : (Instr.ark 11).wf = false := by decide

/-- R113: TRACE takes R in 0..9. -/
theorem test_wf_trace_high : (Instr.trace 10).wf = false := by decide

theorem test_wf_bounds : (Instr.kstep 1).wf = true ∧ (Instr.kstep 10).wf = true ∧ (Instr.ark 0).wf = true ∧
    (Instr.ark 10).wf = true ∧ (Instr.trace 0).wf = true ∧ (Instr.trace 9).wf = true := by decide

/-! ### Decoding: words written out from the table of 30_encoding.md R113 -/

theorem test_decode_control : decode 0x00000000 = .ok .nop ∧ decode 0x00000001 = .ok .clear ∧
    decode 0x00000002 = .ok .xfer := by decide

theorem test_decode_key_schedule : decode 0x00000010 = .ok .expand ∧ decode 0x00000111 = .ok (.kstep 1) ∧
    decode 0x00000A11 = .ok (.kstep 10) := by decide

theorem test_decode_round : decode 0x00000020 = .ok (.ark 0) ∧ decode 0x00000A20 = .ok (.ark 10) ∧
    decode 0x00000021 = .ok .subb ∧ decode 0x00000022 = .ok .shrow ∧ decode 0x00000023 = .ok .mixcol ∧
    decode 0x00000024 = .ok .invsubb ∧ decode 0x00000025 = .ok .invshrow ∧
    decode 0x00000026 = .ok .invmixcol := by decide

theorem test_decode_cipher : decode 0x00000028 = .ok .encb ∧ decode 0x00000029 = .ok .decb ∧
    decode 0x0000002A = .ok (.trace 0) ∧ decode 0x0000092A = .ok (.trace 9) := by decide

theorem test_decode_gf : decode 0x00570030 = .ok (.xtime 0x57) ∧
    decode 0x83570031 = .ok (.gmul 0x57 0x83) := by decide

theorem test_decode_modes : decode 0x00000040 = .ok .ecbenc ∧ decode 0x00000041 = .ok .ecbdec ∧
    decode 0x00000042 = .ok .cbcenc ∧ decode 0x00000043 = .ok .cbcenct ∧ decode 0x00000044 = .ok .cbcdec ∧
    decode 0x00000045 = .ok .ctrx := by decide

theorem test_decode_demo_and_router : decode 0x00000050 = .ok .xordemo ∧ decode 0x00000060 = .ok .route ∧
    decode 0x00000061 = .ok .run := by decide

/-- 30_encoding.md R120, R122; the last word is 95_test_vectors.md section 2.6's `0x00010028`. -/
theorem test_decode_rejects : decode 0x00000003 = .error .reservedOpcode ∧
    decode 0x00000011 = .error .roundOutOfRange ∧ decode 0x00000B11 = .error .roundOutOfRange ∧
    decode 0x00000A2A = .error .roundOutOfRange ∧ decode 0x00000121 = .error .unusedRound ∧
    decode 0x00001021 = .error .reservedField ∧ decode 0x01000028 = .error .unusedB ∧
    decode 0x00010028 = .error .unusedA := by decide

/-- The words of the opcode table reach the decoder and run as the first command after reset. -/
theorem test_table_word : decodeTableWord 32 0x83570031 = some (.gmul 0x57 0x83) ∧
    decodeTableWord 8 0x60 = some .route ∧
    after (step (State.reset.withFetchWord 32 0x83570031)) (·.gfRes) = some 0xC1 := by decide +kernel

/-! ### One or two vectors per command -/

/-- R140. -/
theorem test_nop : after (exec .nop (due 0)) (·.status) = some ⟨false, true, false, false, false⟩ := by decide

/-- R141. -/
theorem test_clear : after (exec .clear { loaded with outLen := 7 })
    (fun t => (readLoc t .valid0, readLoc t .valid1, t.outLen)) = some (0, 0, 0) := by decide

/-- R142: three bytes of MSG_OUT. -/
theorem test_xfer : after (exec .xfer { loaded with outLen := 3, mem := [(0x8000, 7), (0x8001, 8), (0x8002, 9)] })
    (fun t => (readIn t 3, t.len)) = some ([7, 8, 9], 3) := by decide

/-- Section 2.7, full buffer: OUT_LEN = 4112 does not fit. -/
theorem test_xfer_too_long : after (exec .xfer { loaded with outLen := 4112 }) (·.errcode) = some 3 := by decide

/-- Section 2.2, RK[10] of the FIPS-197 key. -/
theorem test_expand : after (exec .expand loaded) (fun t => blockToBits t.rk[10]) =
    some 0xd014f9a8c9ee2589e13f0cc8b6630ca6 := by decide +kernel

/-- Section 2.2, corner case: VALID0 = 0x00000FFF. -/
theorem test_expand_partial : after (exec .expand { loaded with keyM := 0x0FFF }) (·.errcode) = some 3 := by decide

/-- Section 2.2, row 9. -/
theorem test_kstep : after (exec (.kstep 9) loaded) (fun t => (wordToBits t.ksd.sub, wordToBits t.ksd.rcon,
    wordToBits t.ksd.t, blockToBits t.ksd.derived)) =
    some (0x5da515d2, 0x1b000000, 0x46a515d2, 0xac7766f319fadc2128d12941575c006e) := by decide +kernel

/-- Section 2.3, last row but one. -/
theorem test_ark : after (exec (.ark 10) (withState 0x3925841d02dc09fbdc118597196a0b32))
    (fun t => blockToBits t.state) = some 0xe9317db5cb322c723d2e895faf090794 := by decide +kernel

/-- Section 2.3, row 2. -/
theorem test_subb : after (exec .subb (withState 0x193de3bea0f4e22b9ac68d2ae9f84808))
    (fun t => blockToBits t.state) = some 0xd42711aee0bf98f1b8b45de51e415230 := by decide +kernel

/-- Section 1.4. -/
theorem test_shrow : after (exec .shrow (withState 0x000102030405060708090a0b0c0d0e0f))
    (fun t => blockToBits t.state) = some 0x00050a0f04090e03080d02070c01060b := by decide +kernel

/-- Section 2.3. -/
theorem test_mixcol : after (exec .mixcol (withState 0xdb135345f20a225c01010101c6c6c6c6))
    (fun t => blockToBits t.state) = some 0x8e4da1bc9fdc589d01010101c6c6c6c6 := by decide +kernel

/-- Section 2.3. -/
theorem test_invsubb : after (exec .invsubb (withState 0xd42711aee0bf98f1b8b45de51e415230))
    (fun t => blockToBits t.state) = some 0x193de3bea0f4e22b9ac68d2ae9f84808 := by decide +kernel

/-- Section 2.3. -/
theorem test_invshrow : after (exec .invshrow (withState 0x000102030405060708090a0b0c0d0e0f))
    (fun t => blockToBits t.state) = some 0x000d0a0704010e0b0805020f0c090603 := by decide +kernel

/-- Section 2.3. -/
theorem test_invmixcol : after (exec .invmixcol (withState 0x046681e5e0cb199a48f8d37a2806264c))
    (fun t => blockToBits t.state) = some 0xd4bf5d30e0b452aeb84111f11e2798e5 := by decide +kernel

/-- Section 1.1. -/
theorem test_encb : after (exec .encb loaded) (fun t => (blockToBits t.state, blockToBits t.rk[1])) =
    some (0x3925841d02dc09fbdc118597196a0b32, 0xa0fafe1788542cb123a339392a6c7605) := by decide +kernel

/-- Section 2.6: STATE bytes 0..14 only. -/
theorem test_encb_partial : after (exec .encb { loaded with stateM := 0x7FFF }) (·.errcode) = some 3 := by decide

/-- Section 1.1. -/
theorem test_decb : after (exec .decb (withState 0x3925841d02dc09fbdc118597196a0b32))
    (fun t => blockToBits t.state) = some 0x3243f6a8885a308d313198a2e0370734 := by decide +kernel

/-- Section 2.6: `need(KEY)` is checked first. -/
theorem test_decb_order : after (exec .decb { loaded with keyM := 0, stateM := 0xFF }) (·.errcode) = some 5 := by
  decide

/-- Section 2.5, row 1. -/
theorem test_trace : after (exec (.trace 1) loaded) (fun t => (blockToBits t.tr.input, blockToBits t.tr.ark,
    blockToBits t.tr.sb, blockToBits t.tr.sr, blockToBits t.tr.last, wordToBits t.ksd.t)) =
    some (0x046681e5e0cb199a48f8d37a2806264c, 0xa49c7ff2689f352b6b5bea43026a5049,
      0x49ded28945db96f17f39871a7702533b, 0x49db873b453953897f02d2f177de961a,
      0x584dcaf11b4b5aacdbe7caa81b6bb0e5, 0x52386be5) := by decide +kernel

/-- Section 2.5, row 9: TR_LAST is the ciphertext. -/
theorem test_trace_last : after (exec (.trace 9) loaded) (fun t => blockToBits t.tr.last) =
    some 0x3925841d02dc09fbdc118597196a0b32 := by decide +kernel

/-- Section 2.1. -/
theorem test_xtime : after (exec (.xtime 0xFF) loaded) (·.gfRes) = some 0xE5 := by decide

/-- Section 2.1. -/
theorem test_gmul : after (exec (.gmul 0x57 0x13) loaded) (·.gfRes) = some 0xFE := by decide

/-- Section 2.7, M3. -/
theorem test_ecbenc : after (exec .ecbenc (withMessage 0x20 3 0x61626300000000000000000000000000 0))
    outputAndError = some (bytes 16 0x0da7d34a2c0c32bd408e96dbd66f3ffe 0, 0) := by decide +kernel

/-- Section 2.7, M8: DES refused. -/
theorem test_ecbenc_refused : after (exec .ecbenc (withMessage 0x30 3 0x61626300000000000000000000000000 0))
    outputAndError = some ([], 6) := by decide +kernel

/-- Section 2.7, M14: the last byte 17 strips 17 bytes. -/
theorem test_ecbdec : after (exec .ecbdec (withMessage 0x20 32 0x6c2a3fd93aa7b417c5438d26a4619519
    0xb5d8e051cd7503a8fbd85faa69bf2164)) outputAndError =
    some (bytes 15 0x41414141414141414141414141414141 0, 0) := by decide +kernel

/-- Section 2.7, M12: the last byte 32 is over LEN. -/
theorem test_ecbdec_strip_error : after (exec .ecbdec (withMessage 0x20 16 0xbf0b266e31c63d8f5e76742c8434de94 0))
    outputAndError = some ([], 3) := by decide +kernel

/-- Section 2.7, M20. -/
theorem test_cbcenc : after (exec .cbcenc (withMessage 0x20 20 0x6bc1bee22e409f96e93d7e117393172a
    0xae2d8a57000000000000000000000000)) (fun t => (outputAndError t, blockToBits t.chain)) =
    some ((bytes 32 0x7649abac8119b246cee98e9b12e9197d 0x2e013f890472d82217b17f45f6e7f539, 0),
      0x2e013f890472d82217b17f45f6e7f539) := by decide +kernel

/-- Section 2.7, M26. -/
theorem test_cbcenct : after (exec .cbcenct (withMessage 0x00 20 0x6bc1bee22e409f96e93d7e117393172a
    0xae2d8a57000000000000000000000000)) (fun t => (outputAndError t, blockToBits t.chain)) =
    some ((bytes 20 0x7649abac8119b246cee98e9b12e9197d 0x2e013f89000000000000000000000000, 0),
      0x2e013f890472d82217b17f45f6e7f539) := by decide +kernel

/-- Section 2.7, M27: TRUNC_PAD = ZERO. -/
theorem test_cbcenct_zero : after (exec .cbcenct { withMessage 0x00 20 0x6bc1bee22e409f96e93d7e117393172a
    0xae2d8a57000000000000000000000000 with cfg := { Params.defaults with truncPad := .zero } })
    (fun t => blockToBits t.chain) = some 0x157d5a9637905caec021b40af99d3b90 := by decide +kernel

/-- Section 2.7, M31. -/
theorem test_cbcdec : after (exec .cbcdec (withMessage 0x20 32 0x7649abac8119b246cee98e9b12e9197d
    0x2e013f890472d82217b17f45f6e7f539)) (fun t => (outputAndError t, blockToBits t.chain)) =
    some ((bytes 20 0x6bc1bee22e409f96e93d7e117393172a 0xae2d8a57000000000000000000000000, 0),
      0x2e013f890472d82217b17f45f6e7f539) := by decide +kernel

/-- Section 2.7, M34. -/
theorem test_ctrx : after (exec .ctrx (withMessage 0x00 20 0x6bc1bee22e409f96e93d7e117393172a
    0xae2d8a57000000000000000000000000)) (fun t => (outputAndError t, halfToBits t.ctrcur)) =
    some ((bytes 20 0x874d6191b620e3261bef6864990db6ce 0x9806f66b000000000000000000000000, 0),
      0xF8F9FAFBFCFDFF01) := by decide +kernel

/-- Section 2.7, M35: CTR_LE = 1. -/
theorem test_ctrx_le : after (exec .ctrx (withMessage 0x80 20 0x6bc1bee22e409f96e93d7e117393172a
    0xae2d8a57000000000000000000000000)) outputAndError =
    some (bytes 20 0xcf9babc61ece4fd499375dd5b513067b 0x1941afe8000000000000000000000000, 0) := by decide +kernel

/-- Section 1.3. -/
theorem test_xordemo : after (exec .xordemo { loaded with
    state := blockOfBits 0xa0000000000000000000000000000000
    key := blockOfBits 0x50000000000000000000000000000000, xlen := 0x0404 })
    (fun t => (blockToBits t.state, t.errcode)) = some (0xf0000000000000000000000000000000, 0) := by decide +kernel

/-- Section 1.3: mismatched lengths. -/
theorem test_xordemo_mismatch : after (exec .xordemo { loaded with xlen := 0x0403 }) (·.errcode) = some 1 := by
  decide

/-- Section 2.8, X3. -/
theorem test_route_cbc : after (exec .route (graphCbc 0x01)) (fun t => (t.routeRes0, t.routeRes1, t.errcode)) =
    some (0xFF020100, 0xFF03, 0) := by decide +kernel

/-- Section 2.8, X8: the results are kept when a role does not resolve. -/
theorem test_route_missing : after (exec .route { graphCtr 0x02 with
    edges := [(0, 0x80403002), (1, 0x80203001), (2, 0x80504003), (4, 0x80505004)] })
    (fun t => (t.routeRes0, t.routeRes1, t.errcode)) = some (0x02FF01FF, 0x04FF, 5) := by decide +kernel

/-- The example of 47_router.md R301. -/
theorem test_run : after (exec .run (graphEcb 0x00)) (fun t => (t.routeRes0, outputAndError t)) =
    some (0xFFFF0100, bytes 16 0x3ad77bb40d7a3660a89ecaf32466ef97 0, 0) := by decide +kernel

/-! ### Witnesses: states and operands that meet the hypotheses of each statement -/

theorem loaded_full (x : OpReg) : operandFull loaded x := by cases x <;> rfl

theorem message_full (c : BitVec 8) (n : Nat) (v w : BitVec 128) (x : OpReg) :
    operandFull (withMessage c n v w) x := by cases x <;> rfl

/-- DecodeOfEncode, at both ends of each range. -/
theorem witness_decode_of_encode : (Instr.kstep 1).wf = true ∧ (Instr.kstep 10).wf = true ∧
    (Instr.ark 10).wf = true ∧ (Instr.trace 9).wf = true ∧ (Instr.gmul 0xFF 0xFF).wf = true := by decide

/-- EncodeOfDecode. -/
theorem witness_encode_of_decode : decode 0xFFFF0031 = .ok (.gmul 0xFF 0xFF) := by decide

/-- LegalWords, its second clause. -/
theorem witness_legal_words : completes (due 0x00000003) ∧ decode (due 0x00000003).cmd = .error .reservedOpcode := by
  decide

/-- StepRunsDecodedCommand. -/
theorem witness_step_runs : completes (due 0x00000028) ∧ decode (due 0x00000028).cmd = .ok .encb := by decide

/-- CmdWriteAccepts, its three clauses. -/
theorem witness_cmd_write : (issued (.write 0 0x28 0xF)).status.busy = false ∧
    (issued (.write 0 0x28 0xF)).pending = [.write 0 0x28 0xF] ∧
    (issued (.write 0 0x28 0x7)).status.busy = false ∧ (0x7 : BitVec 4) ≠ 0xF ∧
    (issued (.write 0 0x28 0x7)).pending = [.write 0 0x28 0x7] ∧
    (busyIssued (.write 0 0x28 0xF)).status.busy = true ∧ (busyIssued (.write 0 0x28 0xF)).wait = 0 + 1 ∧
    (busyIssued (.write 0 0x28 0xF)).pending = [.write 0 0x28 0xF] := by decide

/-- ErrorsByCommand, its two clauses. -/
theorem witness_errors : loaded.errcode = 0 ∧ (after (exec .nop loaded) (·.errcode)).isSome = true ∧
    completes (due 0x00000062) ∧ decode (due 0x00000062).cmd = .error .reservedOpcode ∧
    (after (step (due 0x00000062)) (·.errcode)).isSome = true := by decide

/-- AcceptedCommandCompletes, with a read while it waits. -/
theorem witness_accepted : (busyIssued (.read 8)).status.busy = true ∧
    BusEvent.reset ∉ (busyIssued (.read 8)).pending.take (busyIssued (.read 8)).wait := by decide

/-- MisalignedGetsBusErr: a read and a write, idle and busy. -/
theorem witness_misaligned : ¬ completes (issued (.read 0x0101)) ∧ (0x0101 : BitVec 16).toNat % 4 ≠ 0 ∧
    (issued (.read 0x0101)).pending = [.read 0x0101] ∧ ¬ completes (busyIssued (.write 0xFFFF 1 0xF)) ∧
    (0xFFFF : BitVec 16).toNat % 4 ≠ 0 ∧
    (busyIssued (.write 0xFFFF 1 0xF)).pending = [.write 0xFFFF 1 0xF] := by decide

/-- BusyWritesAreIgnored. -/
theorem witness_busy_write : ¬ completes (busyIssued (.write 0x0100 1 0xF)) ∧
    (busyIssued (.write 0x0100 1 0xF)).status.busy = true ∧
    (busyIssued (.write 0x0100 1 0xF)).pending = [.write 0x0100 1 0xF] ∧
    (0x0100 : BitVec 16).toNat % 4 = 0 := by decide

/-- BusyReadsOfInputs: STATUS, and a reserved offset. -/
theorem witness_busy_read : ¬ completes (busyIssued (.read 0x0008)) ∧
    (busyIssued (.read 0x0008)).status.busy = true ∧ (busyIssued (.read 0x0008)).pending = [.read 0x0008] ∧
    (0x0008 : BitVec 16).toNat % 4 = 0 ∧ isResult (locOf loaded.cfg (0x0008 : BitVec 16).toNat) = false ∧
    isResult (locOf loaded.cfg (0x003C : BitVec 16).toNat) = false := by decide

/-- StatusWordLayouts, its clause on PARAM. -/
theorem witness_param : State.reset.cfg.legal ∧ readLoc State.reset .param = 0x01003F20 := by decide

/-- ReadsHaveNoSideEffects: the same read twice while idle, and a read while busy. -/
theorem witness_reads : ¬ completes { issued (.read 0x14) with pending := [.read 0x14, .read 0x14] } ∧
    State.reset.status.busy = false ∧ ¬ completes (busyIssued (.read 0x14)) ∧
    (busyIssued (.read 0x14)).pending = [.read 0x14] := by decide

/-- ReadsPackBytesBigEndian: the first and last control register, the KSD words, and the last entries of the graph. -/
theorem witness_read_words : locOf State.reset.cfg 0x0000 = .cmd ∧ locOf State.reset.cfg 0x0034 = .param ∧
    (issued (.read 0x0034)).pending = [.read 0x0034] ∧ (0x0034 : BitVec 16).toNat % 4 = 0 ∧
    (0x0410 : BitVec 16).toNat = 0x0410 ∧ (0x041C : BitVec 16).toNat = 0x041C ∧
    locOf State.reset.cfg 0x0410 = .ksd 4 ∧ locOf State.reset.cfg 0x041C = .ksd 7 ∧
    (31 < State.reset.cfg.nNodes ∧ (0x087C : BitVec 16).toNat = 0x0800 + 4 * 31) ∧
    (63 < State.reset.cfg.nEdges ∧ (0x0CFC : BitVec 16).toNat = 0x0C00 + 4 * 63) := by decide +kernel

/-- ReadsPackBytesBigEndian: the last word of each register and buffer. -/
theorem witness_read_lanes : State.reset.cfg.legal ∧ State.reset.status.busy = false ∧
    (issued (.read 0x010C)).pending = [.read 0x010C] ∧ (0x010C : BitVec 16).toNat % 4 = 0 ∧
    (4 * 3 < operandSize .key ∧ (0x010C : BitVec 16).toNat = operandBase .key + 4 * 3) ∧
    (4 * 1 < operandSize .ctr0 ∧ (0x013C : BitVec 16).toNat = operandBase .ctr0 + 4 * 1) ∧
    (0x014C : BitVec 16).toNat = 0x0140 + 4 * 3 ∧ (0x0154 : BitVec 16).toNat = 0x0150 + 4 * 1 ∧
    (0x02AC : BitVec 16).toNat = 0x0200 + 16 * 10 + 4 * 3 ∧ (0x030C : BitVec 16).toNat = 0x0300 + 4 * 3 ∧
    (0x031C : BitVec 16).toNat = 0x0310 + 4 * 3 ∧ (0x032C : BitVec 16).toNat = 0x0320 + 4 * 3 ∧
    (0x033C : BitVec 16).toNat = 0x0330 + 4 * 3 ∧ (0x034C : BitVec 16).toNat = 0x0340 + 4 * 3 ∧
    (0x040C : BitVec 16).toNat = 0x0400 + 4 * 3 ∧ (0x042C : BitVec 16).toNat = 0x0420 + 4 * 3 ∧
    (4092 < State.reset.cfg.msgbufBytes ∧ (0x4FFC : BitVec 16).toNat = 0x4000 + 4092) ∧
    (4108 < State.reset.cfg.msgbufBytes + 16 ∧ (0x900C : BitVec 16).toNat = 0x8000 + 4108) := by decide

/-- OperandWritesAndMasks: a write of the last word of CTR0 and of KEY, then CLEAR and reset taking a bit away, and a
command that is not CLEAR. -/
theorem witness_operand_writes : (issued (.write 0x010C 1 0x8)).status.busy = false ∧
    (4 * 3 < operandSize .key ∧ (0x010C : BitVec 16).toNat = operandBase .key + 4 * 3) ∧
    (4 * 1 < operandSize .ctr0 ∧ (0x013C : BitVec 16).toNat = operandBase .ctr0 + 4 * 1) ∧
    operandMask (due 0x01) .key 15 = true ∧
    after (step (due 0x01)) (operandMask · .key 15) = some false ∧
    operandMask { loaded with pending := [.reset] } .ctr0 7 = true ∧
    after (step { loaded with pending := [.reset] }) (operandMask · .ctr0 7) = some false ∧
    Instr.nop ≠ .clear ∧ (after (exec .nop loaded) (·.keyM)).isSome = true := by decide

/-- ReservedAndReadOnlyLocations: a reserved offset, a result register and PARAM. -/
theorem witness_reserved : State.reset.status.busy = false ∧
    locOf State.reset.cfg (0x0038 : BitVec 16).toNat = .reserved ∧
    locOf State.reset.cfg (0x5000 : BitVec 16).toNat = .reserved ∧
    isResult (locOf State.reset.cfg (0x0200 : BitVec 16).toNat) = true ∧
    locOf State.reset.cfg (0x0034 : BitVec 16).toNat = .param ∧
    (issued (.write 0x0200 1 0xF)).pending = [.write 0x0200 1 0xF] ∧
    (issued (.read 0xFFFC)).pending = [.read 0xFFFC] ∧
    locOf State.reset.cfg (0xFFFC : BitVec 16).toNat = .reserved := by decide +kernel

/-- ReservedAndReadOnlyLocations: both ends of the reserved ranges of the default parameters, and the last location
before each, by the address map of 20_memory.md R84. -/
theorem witness_reserved_ranges : State.reset.cfg.legal ∧
    [0x0038, 0x00FC, 0x0158, 0x01FC, 0x02B0, 0x02FC, 0x0350, 0x03FC, 0x0430, 0x07FC, 0x0880, 0x0BFC, 0x0D00, 0x3FFC,
      0x5000, 0x7FFC, 0x9010, 0xFFFC].all (fun a => decide (locOf State.reset.cfg a = .reserved)) = true ∧
    [0x0034, 0x0154, 0x02AC, 0x034C, 0x042C, 0x087C, 0x0CFC, 0x4FFC, 0x900C].all
      (fun a => decide (locOf State.reset.cfg a ≠ .reserved)) = true := by decide +kernel

/-- ReservedAndReadOnlyLocations: both ends of the read-only ranges, and writable locations beside them. -/
theorem witness_read_only_ranges :
    [0x000C, 0x0014, 0x001C, 0x0020, 0x0024, 0x002C, 0x0030, 0x0140, 0x0154, 0x0200, 0x02AC, 0x0300, 0x034C, 0x0400,
      0x042C, 0x8000, 0x900C].all (fun a => isResult (locOf State.reset.cfg a)) = true ∧
    [0x0000, 0x0004, 0x0008, 0x0010, 0x0018, 0x0028, 0x0034, 0x0100, 0x013C, 0x0158, 0x0800, 0x0C00, 0x4FFC].all
      (fun a => !isResult (locOf State.reset.cfg a)) = true := by decide +kernel

/-- StatusWriteClearsStickyBits and ControlWritesKeepDefinedBits, with every strobe, some and none. -/
theorem witness_control_writes : State.reset.status.busy = false ∧
    (issued (.write 0x0008 0x18 0x8)).pending = [.write 0x0008 0x18 0x8] ∧
    (issued (.write 0x0004 0xFFFFFFFF 0xF)).pending = [.write 0x0004 0xFFFFFFFF 0xF] ∧
    (issued (.write 0x0010 0xFFFFFFFF 0x4)).pending = [.write 0x0010 0xFFFFFFFF 0x4] ∧
    (issued (.write 0x0018 0xFFFFFFFF 0x8)).pending = [.write 0x0018 0xFFFFFFFF 0x8] ∧
    (issued (.write 0x0028 0xFFFFFFFF 0x0)).pending = [.write 0x0028 0xFFFFFFFF 0x0] := by decide

/-- A write of the lane of bits [15:8] only, by 20_memory.md R81 and R83: LEN and an edge keep their other bytes. -/
theorem test_partial_strobe : after (step (issued (.write 0x0010 0xAABBCCDD 0x4))) (·.len) = some 0xCC00 ∧
    after (step { issued (.write 0x0C00 0xAABBCCDD 0x4) with edges := [(0, 0x80102000)] }) (edgeEntry · 0) =
      some 0x8010CC00 := by decide

/-- TableWritesStoreTheEntry: the last entries of NODE and EDGE. -/
theorem witness_table_writes : State.reset.cfg.legal ∧ State.reset.status.busy = false ∧
    (issued (.write 0x087C 7 0xF)).pending = [.write 0x087C 7 0xF] ∧
    (issued (.write 0x0CFC 7 0x5)).pending = [.write 0x0CFC 7 0x5] ∧
    (31 < State.reset.cfg.nNodes ∧ (0x087C : BitVec 16).toNat = 0x0800 + 4 * 31) ∧
    (63 < State.reset.cfg.nEdges ∧ (0x0CFC : BitVec 16).toNat = 0x0C00 + 4 * 63) := by decide

/-- MsgInWritesStoreEnabledBytes: the last word of MSG_IN. -/
theorem witness_msg_in_write : State.reset.cfg.legal ∧ (issued (.write 0x4FFC 7 0x5)).status.busy = false ∧
    (issued (.write 0x4FFC 7 0x5)).pending = [.write 0x4FFC 7 0x5] ∧ 4092 % 4 = 0 ∧
    4092 < State.reset.cfg.msgbufBytes ∧ (0x4FFC : BitVec 16).toNat = 0x4000 + 4092 := by decide

/-- ResetGivesDefinedValues, idle and while a command is in flight. -/
theorem witness_reset : ¬ completes (issued .reset) ∧ (issued .reset).pending = [.reset] ∧
    ¬ completes (busyIssued .reset) ∧ (busyIssued .reset).pending = [.reset] := by decide

/-- StepKeepsInv: the reset state takes a step. -/
theorem witness_step : MachineInv State.reset ∧ (after (step State.reset) (·.cmd)).isSome = true :=
  ⟨⟨by decide, by decide, by decide, ⟨Nat.zero_le _, fun a h => absurd h (by simp [State.reset])⟩, by decide⟩,
    by decide⟩

/-- CommandsNeverWriteTheirInputs and RkIsNeverRead: commands with a next state. -/
theorem witness_exec : (after (exec .xfer loaded) (·.len)).isSome = true ∧
    (after (exec .expand loaded) (·.len)).isSome = true ∧ Instr.expand ≠ .clear ∧ Instr.expand ≠ .xfer := by decide

/-- RefusedControlValues: CIPHER 2 and 3, MODE 3. -/
theorem witness_refused : 2 ≤ (({ loaded with ctrl := 0x10 } : State).ctrl.extractLsb' 3 2).toNat ∧
    2 ≤ (({ loaded with ctrl := 0x18 } : State).ctrl.extractLsb' 3 2).toNat ∧
    (({ loaded with ctrl := 0x03 } : State).ctrl.extractLsb' 0 2).toNat = 3 := by decide

/-- OperandChecks: the round indices at both ends of their ranges. -/
theorem witness_operand_check_rounds : (1 ≤ (1 : BitVec 4).toNat ∧ (1 : BitVec 4).toNat ≤ 10) ∧
    (1 ≤ (10 : BitVec 4).toNat ∧ (10 : BitVec 4).toNat ≤ 10) ∧ (0 : BitVec 4).toNat ≤ 9 ∧
    (9 : BitVec 4).toNat ≤ 9 ∧ ({ loaded with keyM := 0 } : State).keyM = 0 ∧
    ({ loaded with stateM := 0 } : State).stateM = 0 ∧ operandFull { loaded with stateM := 0 } .key :=
  ⟨by decide, by decide, by decide, by decide, rfl, rfl, rfl⟩

/-- OperandChecks: every register absent, every register partial, the others full. -/
theorem witness_operand_checks : (ctrlCipher loaded).isSome = true ∧
    ({ loaded with keyM := 0x7FFF } : State).keyM ≠ 0 ∧ ¬ operandFull { loaded with keyM := 0x7FFF } .key ∧
    ¬ operandFull { loaded with stateM := 1 } .state ∧ ¬ operandFull { loaded with ivM := 1 } .iv ∧
    ¬ operandFull { loaded with nonceM := 0x80 } .nonce ∧ ¬ operandFull { loaded with ctr0M := 1 } .ctr0 := by
  unfold operandFull
  decide

/-- XferCopiesTheOutput: the longest output that fits and one block more. -/
theorem witness_xfer : loaded.cfg.legal ∧
    ({ loaded with outLen := 4096 } : State).outLen.toNat ≤ loaded.cfg.msgbufBytes ∧
    loaded.cfg.msgbufBytes < ({ loaded with outLen := 4112 } : State).outLen.toNat := by decide

/-- The statements whose premises are loaded operands and a range of R: KstepShowsTheDerivation,
ArkAddsTheRoundKey, TraceShowsTheRounds, at both ends; ExpandDerivesTheSchedule, SubbAndInvsubb, ShrowAndInvshrow,
MixcolAndInvmixcol, EncbAndDecbResults, EncbEqualsSingleSteps and DecbInvertsEncb need no more than `loaded`. -/
theorem witness_rounds : operandFull loaded .key ∧ operandFull loaded .state ∧
    (1 ≤ (1 : BitVec 4).toNat ∧ (10 : BitVec 4).toNat ≤ 10) ∧ 10 < (11 : BitVec 4).toNat ∧
    (0 : BitVec 4).toNat = 0 ∧ (9 : BitVec 4).toNat ≤ 9 ∧ (8 : BitVec 4).toNat ≤ 8 ∧
    9 < (10 : BitVec 4).toNat :=
  ⟨loaded_full _, loaded_full _, by decide⟩

/-- The mode statements, AES, PAD = 1 and a length that is no multiple of 16 (EcbencEncryptsEachBlock,
CbcencChainsBlocks, CbcenctTruncates, CtrxXorsTheKeystream, EcbRoundTrip, CbcRoundTrip, CtrInvolution). -/
theorem witness_modes : (withMessage 0x20 20 1 2).cfg.legal ∧ ctrlCipher (withMessage 0x20 20 1 2) = some .aes ∧
    ctrlPad (withMessage 0x20 20 1 2) = true ∧ (withMessage 0x20 20 1 2).len.toNat < 4096 ∧
    (withMessage 0x20 20 1 2).len.toNat % 16 ≠ 0 ∧
    ∀ x, operandFull (withMessage 0x20 20 1 2) x :=
  ⟨by decide, by decide, by decide, by decide, by decide, message_full _ _ _ _⟩

/-- The mode statements, XOR cipher, PAD = 0 and whole blocks (EcbdecDecryptsEachBlock and CbcdecUnchainsBlocks too,
in their clause that strips nothing). -/
theorem witness_modes_unpadded : (withMessage 0x08 32 1 2).cfg.legal ∧
    ctrlCipher (withMessage 0x08 32 1 2) = some .xor ∧ ctrlPad (withMessage 0x08 32 1 2) = false ∧
    (withMessage 0x08 32 1 2).len.toNat ≤ 4096 ∧ (withMessage 0x08 32 1 2).len.toNat % 16 = 0 ∧
    ∀ x, operandFull (withMessage 0x08 32 1 2) x :=
  ⟨by decide, by decide, by decide, by decide, by decide, message_full _ _ _ _⟩

/-- The mode statements, in their clauses on a refused length: one byte over MSGBUF_BYTES, and with PAD = 0 three
bytes, either cipher; for the decrypting commands fifteen bytes, and with PAD = 1 none. -/
theorem witness_lengths_refused :
    ({ loaded with ctrl := 0x20, len := 4097 } : State).cfg.msgbufBytes <
      ({ loaded with ctrl := 0x20, len := 4097 } : State).len.toNat ∧
    ctrlCipher { loaded with ctrl := 0x20, len := 4097 } = some .aes ∧
    ctrlCipher { loaded with ctrl := 0x08, len := 4097 } = some .xor ∧
    (ctrlPad (withMessage 0x00 3 1 2) = false ∧ (withMessage 0x00 3 1 2).len.toNat % 16 ≠ 0) ∧
    (withMessage 0x28 15 1 2).len.toNat % 16 ≠ 0 ∧
    (ctrlPad (withMessage 0x20 0 1 2) = true ∧ (withMessage 0x20 0 1 2).len.toNat = 0) ∧
    (∀ x, operandFull { loaded with ctrl := 0x20, len := 4097 } x) :=
  ⟨by decide, by decide, by decide, by decide, by decide, by decide, loaded_full⟩

/-- EcbdecDecryptsEachBlock and CbcdecUnchainsBlocks with PAD = 1, in their clause that strips: section 2.7, M11, and in
their clause that fails: M12. -/
theorem witness_decrypt_padded : (withMessage 0x20 16 0x0da7d34a2c0c32bd408e96dbd66f3ffe 0).cfg.legal ∧
    ctrlPad (withMessage 0x20 16 0x0da7d34a2c0c32bd408e96dbd66f3ffe 0) = true ∧
    (withMessage 0x20 16 0x0da7d34a2c0c32bd408e96dbd66f3ffe 0).len.toNat ≠ 0 ∧
    (aesDecrypt (blockOfBits 0x0da7d34a2c0c32bd408e96dbd66f3ffe) loaded.key).c3.w3.toNat = 13 ∧
    (aesDecrypt (blockOfBits 0xbf0b266e31c63d8f5e76742c8434de94) loaded.key).c3.w3.toNat = 32 := by
  decide +kernel

/-- XordemoXorsBitStrings: the longest strings, one bit over, and unequal lengths. -/
theorem witness_xordemo : operandFull loaded .key ∧ operandFull loaded .state ∧
    (ptBits { loaded with xlen := 0x8080 } = 128 ∧ keyBits { loaded with xlen := 0x8080 } = 128) ∧
    128 < ptBits { loaded with xlen := 0x8081 } ∧ 128 < keyBits { loaded with xlen := 0x8180 } ∧
    ptBits { loaded with xlen := 0x8000 } ≠ keyBits { loaded with xlen := 0x8000 } :=
  ⟨loaded_full _, loaded_full _, by decide⟩

/-- RouteDirectEcb, on graph G1 of 95_test_vectors.md section 2.8. -/
theorem witness_route_ecb : ctrlMode (graphEcb 0) = some .ecb ∧ validNode (graphEcb 0) 2 = true ∧
    (graphEcb 0).routeNode.toNat = 2 ∧ nodeKind (graphEcb 0) 2 = some .cipherBlock ∧
    firstIn (graphEcb 0) 2 1 = some 0 ∧ nodeKind (graphEcb 0) 0 = some .plaintextSource ∧
    firstIn (graphEcb 0) 2 2 = some 1 ∧ nodeKind (graphEcb 0) 1 = some .keySource := by decide +kernel

/-- RouteThroughCombineNode, its CBC clause on graph G2. -/
theorem witness_route_cbc : ctrlMode (graphCbc 1) = some .cbc ∧ (graphCbc 1).routeNode.toNat = 4 ∧
    validNode (graphCbc 1) 4 = true ∧ nodeKind (graphCbc 1) 4 = some .cipherBlock ∧
    firstIn (graphCbc 1) 4 2 = some 1 ∧ nodeKind (graphCbc 1) 1 = some .keySource ∧
    firstIn (graphCbc 1) 4 1 = none ∧ firstIn (graphCbc 1) 4 3 = none ∧ firstIn (graphCbc 1) 4 6 = some 3 ∧
    nodeKind (graphCbc 1) 3 = some .combineXor ∧
    firstInKind (graphCbc 1) 3 [.plaintextSource] 4 = some 0 ∧
    firstInKind (graphCbc 1) 3 [.ivSource, .cipherBlock] 4 = some 2 := by decide +kernel

/-- RouteThroughCombineNode, its CTR clause on graph G3. -/
theorem witness_route_ctr : ctrlMode (graphCtr 2) = some .ctr ∧ (graphCtr 2).routeNode.toNat = 3 ∧
    validNode (graphCtr 2) 3 = true ∧ nodeKind (graphCtr 2) 3 = some .cipherBlock ∧
    firstIn (graphCtr 2) 3 2 = some 1 ∧ nodeKind (graphCtr 2) 1 = some .keySource ∧
    firstIn (graphCtr 2) 3 4 = some 2 ∧ nodeKind (graphCtr 2) 2 = some .counterSource ∧
    firstOutKind (graphCtr 2) 3 [.combineXor] = some 4 ∧
    firstInKind (graphCtr 2) 4 [.plaintextSource] 3 = some 0 := by decide +kernel

/-- Graph G2 with the combine node on the cipher node's own plaintext port (EDGE[2]). -/
def graphHop : State := { graphCbc 1 with
  edges := [(0, 0x80103000), (1, 0x80303002), (2, 0x80104003), (3, 0x80204001), (4, 0x80505004)] }

/-- Graph G2 with the key source on the cipher node's plaintext port as well (EDGE[5]). -/
def graphWrongKind : State := { graphCbc 1 with
  edges := [(0, 0x80103000), (1, 0x80303002), (2, 0x80604003), (3, 0x80204001), (4, 0x80505004), (5, 0x80104001)] }

/-- RouteKeepsItsResults, how a role resolves: at its port; through the combine node on its port, where the `xor` port
is not looked at; through the one on the `xor` port after a first edge of the wrong kind; and not at all. -/
theorem witness_resolve : (firstIn (graphEcb 0) 2 1 = some 0 ∧ nodeKind (graphEcb 0) 0 = some .plaintextSource) ∧
    (firstIn graphHop 4 1 = some 3 ∧ nodeKind graphHop 3 = some .combineXor ∧
      firstInKind graphHop 3 [.plaintextSource] 4 = some 0 ∧ firstIn graphHop 4 6 = none) ∧
    (firstIn graphWrongKind 4 1 = some 1 ∧ nodeKind graphWrongKind 1 = some .keySource ∧
      firstIn graphWrongKind 4 6 = some 3 ∧ nodeKind graphWrongKind 3 = some .combineXor ∧
      firstInKind graphWrongKind 3 [.plaintextSource] 4 = some 0) ∧
    (firstIn (graphEcb 0) 2 3 = none ∧ firstIn (graphEcb 0) 2 6 = none) := by decide +kernel

/-- RouteKeepsItsResults, HOP_NODE and DOWN_NODE: section 2.8, X5, whose CHAIN does not resolve; X8 with a downstream
combine node and X9 without; and a route without a combine node. -/
theorem witness_hop_down :
    modeRoles .cbc = [] ++ Role.pt :: [Role.key, Role.chain] ∧
    roleProducer { graphCbc 1 with edges := [(0, 0x80103000), (2, 0x80604003), (3, 0x80204001), (4, 0x80505004)] }
      .cbc 4 .pt = some (0, some 3) ∧
    roleProducer { graphCbc 1 with edges := [(0, 0x80103000), (2, 0x80604003), (3, 0x80204001), (4, 0x80505004)] }
      .cbc 4 .chain = none ∧
    roleProducer (graphEcb 0) .ecb 2 .pt = some (0, none) ∧ roleProducer (graphEcb 0) .ecb 2 .key = some (1, none) ∧
    (roleProducer { graphCtr 2 with edges := [(0, 0x80403002), (1, 0x80203001), (2, 0x80504003), (4, 0x80505004)] }
      .ctr 3 .pt = none ∧
      firstOutKind { graphCtr 2 with edges := [(0, 0x80403002), (1, 0x80203001), (2, 0x80504003), (4, 0x80505004)] }
        3 [.combineXor] = some 4) ∧
    firstOutKind { graphCtr 2 with edges := [(0, 0x80403002), (1, 0x80203001), (3, 0x80104000), (4, 0x80505004)] }
      3 [.combineXor] = none := by decide +kernel

/-- RouteKeepsItsResults, RunIsRouteThenCommand and RunCompletes: a route that resolves, one that does not, and one that
is no cipher node. -/
theorem witness_run : ctrlMode (graphEcb 0) = some .ecb ∧ ctrlCipher (graphEcb 0) = some .aes ∧
    routeOk (graphEcb 0) .ecb = true ∧ ctrlPad (graphEcb 0) = false ∧ (graphEcb 0).cfg.legal ∧
    (graphEcb 0).len.toNat ≤ 4096 ∧ (graphEcb 0).len.toNat % 16 = 0 ∧
    routeOk { graphEcb 0 with edges := [] } .ecb = false ∧
    routeOk { graphEcb 0 with routeNode := 40 } .ecb = false ∧
    routeOk (graphCbc 1) .cbc = true ∧ routeOk (graphCtr 2) .ctr = true := by decide +kernel

theorem witness_run_full (x : OpReg) : operandFull (graphEcb 0) x ∧ operandFull (graphCbc 1) x ∧
    operandFull (graphCtr 2) x := by cases x <;> exact ⟨rfl, rfl, rfl⟩

end Sys2Proof.Tests
end

section
/-! PROOF. The state of 10_state.md: how its words are laid out, what a host write stores in a register, a mask or a
table entry, what no command writes, and that RK is never read. -/

namespace Sys2Proof.Machine

open Sys2Proof.Safety

/-! ### Words put together from fields (10_state.md R35, R39, R50) -/

theorem getLsbD_append_low {n m : Nat} (x : BitVec n) (y : BitVec m) {i : Nat} (h : i < m) :
    (x ++ y).getLsbD i = y.getLsbD i := by
  rw [BitVec.getLsbD_append, if_pos h]

theorem getLsbD_append_high {n m : Nat} (x : BitVec n) (y : BitVec m) (i : Nat) :
    (x ++ y).getLsbD (m + i) = x.getLsbD i := by
  rw [BitVec.getLsbD_append, if_neg (by omega), Nat.add_sub_cancel_left]

theorem readLoc_valid0_bits (s : State) (k : Nat) (hk : k < 16) :
    (readLoc s .valid0).getLsbD k = operandMask s .key k ∧
      (readLoc s .valid0).getLsbD (16 + k) = operandMask s .state k :=
  ⟨getLsbD_append_low s.stateM s.keyM hk, getLsbD_append_high s.stateM s.keyM k⟩

theorem readLoc_valid1_iv (s : State) (k : Nat) (hk : k < 16) :
    (readLoc s .valid1).getLsbD k = operandMask s .iv k :=
  getLsbD_append_low (s.ctr0M ++ s.nonceM) s.ivM hk

theorem readLoc_valid1_counter (s : State) (k : Nat) (hk : k < 8) :
    (readLoc s .valid1).getLsbD (16 + k) = operandMask s .nonce k ∧
      (readLoc s .valid1).getLsbD (24 + k) = operandMask s .ctr0 k := by
  have high (i : Nat) : (readLoc s .valid1).getLsbD (16 + i) = (s.ctr0M ++ s.nonceM).getLsbD i :=
    getLsbD_append_high (s.ctr0M ++ s.nonceM) s.ivM i
  constructor
  · exact (high k).trans (getLsbD_append_low s.ctr0M s.nonceM hk)
  · rw [show 24 + k = 16 + (8 + k) by omega, high]
    exact getLsbD_append_high s.ctr0M s.nonceM k

theorem getLsbD_append_flag {n : Nat} (x : BitVec n) (b : Bool) (k : Nat) :
    (x ++ BitVec.ofBool b).getLsbD k = if k = 0 then b else x.getLsbD (k - 1) := by
  rw [BitVec.getLsbD_append]
  cases k <;> simp

/-- Bit `k` of STATUS: a flag for each of the five lowest bits, and 0 above them. -/
theorem statusToBits_getLsbD (st : Status) (k : Nat) :
    (statusToBits st).getLsbD k =
      match k with
      | 0 => st.busy
      | 1 => st.done
      | 2 => st.err
      | 3 => st.errSticky
      | 4 => st.writeIgnored
      | _ => false := by
  unfold statusToBits
  change BitVec.getLsbD (w := 27 + 1 + 1 + 1 + 1 + 1) _ k = _
  simp only [getLsbD_append_flag]
  match k with
  | 0 | 1 | 2 | 3 | 4 => rfl
  | k + 5 => simp

/-- The fields of PARAM under legal parameters. -/
theorem paramBits_fields (p : Params) (h : p.legal) :
    ((paramBits p).extractLsb' 0 8).toNat = p.nNodes ∧
      ((paramBits p).extractLsb' 8 8).toNat + 1 = p.nEdges ∧
      16 * ((paramBits p).extractLsb' 16 16).toNat = p.msgbufBytes := by
  obtain ⟨h16, hlo, hhi, hn, hn', he, he'⟩ := h
  have nodes : (paramBits p).extractLsb' 0 8 = BitVec.ofNat 8 p.nNodes :=
    BitVec.extractLsb'_append_eq_right
  have edges : (paramBits p).extractLsb' 8 8 = BitVec.ofNat 8 (p.nEdges - 1) :=
    (BitVec.extractLsb'_append_eq_of_le (by omega)).trans BitVec.extractLsb'_append_eq_right
  have bytes : (paramBits p).extractLsb' 16 16 = BitVec.ofNat 16 (p.msgbufBytes / 16) :=
    (BitVec.extractLsb'_append_eq_of_le (by omega)).trans BitVec.extractLsb'_append_eq_left
  rw [nodes, edges, bytes]
  simp only [BitVec.toNat_ofNat]
  omega

/-! ### The address map, at the writable registers and tables (20_memory.md R84) -/

theorem locOf_operand (p : Params) (x : OpReg) (i : Nat) (h : 4 * i < operandSize x) :
    locOf p (operandBase x + 4 * i) = .operand x i := by
  cases x with
  | key | state | iv =>
    have hi : 4 * i < 16 := h
    have hi : i < 4 := by omega
    interval_cases i <;> rfl
  | nonce | ctr0 =>
    have hi : 4 * i < 8 := h
    have hi : i < 2 := by omega
    interval_cases i <;> rfl

theorem locOf_node (p : Params) (n : Nat) (hp : p.legal) (h : n < p.nNodes) :
    locOf p (0x0800 + 4 * n) = .node n := by
  obtain ⟨-, -, -, -, hn, -, -⟩ := hp
  have index : (0x0800 + 4 * n - 0x0800) / 4 = n := by omega
  rw [locOf, if_neg (by omega), if_neg (by omega), if_neg (by omega), if_neg (by omega), if_neg (by omega),
    if_pos (by omega), index, if_pos h]

theorem locOf_edge (p : Params) (j : Nat) (hp : p.legal) (h : j < p.nEdges) :
    locOf p (0x0C00 + 4 * j) = .edge j := by
  obtain ⟨-, -, -, -, -, -, he⟩ := hp
  have index : (0x0C00 + 4 * j - 0x0C00) / 4 = j := by omega
  rw [locOf, if_neg (by omega), if_neg (by omega), if_neg (by omega), if_neg (by omega), if_neg (by omega),
    if_neg (by omega), if_pos (by omega), index, if_pos h]

/-! ### The sticky bits of STATUS (10_state.md R39) -/

theorem statusWrite_errSticky (st : Status) (d : HWord) (strb : BitVec 4) :
    (statusWrite st d strb).errSticky = true ↔
      st.errSticky = true ∧ ¬ (strb.getLsbD 3 = true ∧ d.getLsbD 3 = true) := by
  simp only [statusWrite, Bool.and_eq_true, Bool.not_eq_true', Bool.eq_false_iff, ne_eq]

theorem statusWrite_writeIgnored (st : Status) (d : HWord) (strb : BitVec 4) :
    (statusWrite st d strb).writeIgnored = true ↔
      st.writeIgnored = true ∧ ¬ (strb.getLsbD 3 = true ∧ d.getLsbD 4 = true) := by
  simp only [statusWrite, Bool.and_eq_true, Bool.not_eq_true', Bool.eq_false_iff, ne_eq]

/-! ### The defined bits of a control register (10_state.md R38, 20_memory.md R83) -/

theorem lane_and (v w : HWord) (k : Nat) : lane (v &&& w) k = lane v k &&& lane w k :=
  BitVec.extractLsb'_and

/-- The lowest `n` bits of a word, reserved bits reading 0, are the word under their mask. -/
theorem zeroExtend_extractLsb' (n : Nat) (v : HWord) :
    (v.extractLsb' 0 n).zeroExtend 32 = v &&& (BitVec.allOnes n).zeroExtend 32 := by
  ext k hk
  simp [hk, Bool.and_comm]

theorem zeroExtend_and_mask (n : Nat) (v : BitVec n) :
    v.zeroExtend 32 &&& (BitVec.allOnes n).zeroExtend 32 = v.zeroExtend 32 := by
  rw [← BitVec.setWidth_and, BitVec.and_allOnes]

/-- A register of `n` defined bits after a write: an enabled lane reads as the defined bits written, a disabled one as
before. -/
theorem lane_definedBits {n : Nat} (old : BitVec n) (d : HWord) (strb : BitVec 4) (k : Nat) (hk : k < 4) :
    lane (((laneMergeBits (old.zeroExtend 32) d strb).extractLsb' 0 n).zeroExtend 32) k =
      if strb.getLsbD k then lane (d &&& (BitVec.allOnes n).zeroExtend 32) k else lane (old.zeroExtend 32) k := by
  rw [zeroExtend_extractLsb', lane_and, laneMergeBits_lane _ _ _ _ hk]
  split
  · rw [lane_and]
  · rw [← lane_and, zeroExtend_and_mask]

/-! ### The entries of a table (20_memory.md R83) -/

/-- A table after a write of its entry `i`: the enabled lanes of that entry are the written ones. -/
theorem lane_tableGet_put (t : Table) (i j : Nat) (d : HWord) (strb : BitVec 4) (k : Nat) (hk : k < 4) :
    lane (tableGet (tablePut t i (laneMergeBits (tableGet t i) d strb)) j) k =
      if j = i ∧ strb.getLsbD k = true then lane d k else lane (tableGet t j) k := by
  rw [tableGet_put]
  by_cases h : i = j
  · subst h
    simp only [if_true, true_and]
    exact laneMergeBits_lane _ _ _ _ hk
  · rw [if_neg h, if_neg fun hj => h hj.1.symm]

/-! ### The bytes and mask bits of an operand register (10_state.md R35, R36) -/

theorem blockWord_setWord (x : Block) (w : Word) (i j : Nat) (hi : i < 4) (hj : j < 4) :
    blockWord (blockSetWord x w i) j = if j = i then w else blockWord x j := by
  interval_cases i <;> interval_cases j <;> rfl

theorem halfWord_setWord (h : Half) (w : Word) (i j : Nat) (hi : i < 2) (hj : j < 2) :
    halfWord (halfSetWord h w i) j = if j = i then w else halfWord h j := by
  interval_cases i <;> interval_cases j <;> rfl

/-- Byte `k` of an operand register lies in its word `k / 4`. -/
theorem operandByte_eq_wordByte (s : State) (x : OpReg) (k : Nat) (hk : k < operandSize x) :
    operandByte s x k = wordByte (operandWord s x (k / 4)) (k % 4) := by
  cases x with
  | key | state | iv => rfl
  | nonce | ctr0 =>
    have hk : k < 8 := hk
    interval_cases k <;> rfl

/-- A write of an operand register leaves the others. -/
theorem writeOperand_other (s : State) {x y : OpReg} (i : Nat) (d : HWord) (strb : BitVec 4) (h : y ≠ x) :
    operandWord (writeOperand s x i d strb) y = operandWord s y ∧
      operandMask (writeOperand s x i d strb) y = operandMask s y := by
  cases x <;> cases y
  case key.key | state.state | iv.iv | nonce.nonce | ctr0.ctr0 => exact absurd rfl h
  all_goals exact ⟨rfl, rfl⟩

/-- The words of every operand register after a write of word `i` of `x`. -/
theorem operandWord_writeOperand (s : State) (x y : OpReg) (i j : Nat) (d : HWord) (strb : BitVec 4)
    (hi : 4 * i < operandSize x) (hj : 4 * j < operandSize y) :
    operandWord (writeOperand s x i d strb) y j =
      if y = x ∧ j = i then laneMerge (operandWord s x i) (wordOfBits d) strb else operandWord s y j := by
  by_cases hxy : y = x
  · subst hxy
    simp only [true_and]
    cases y with
    | key | state | iv =>
      have hi : 4 * i < 16 := hi
      have hj : 4 * j < 16 := hj
      exact blockWord_setWord _ _ i j (by omega) (by omega)
    | nonce | ctr0 =>
      have hi : 4 * i < 8 := hi
      have hj : 4 * j < 8 := hj
      exact halfWord_setWord _ _ i j (by omega) (by omega)
  · rw [if_neg fun h => hxy h.1, (writeOperand_other s i d strb hxy).1]

/-- A write of word `i` of `x` stores its enabled bytes and no other byte of an operand register. -/
theorem operandByte_writeOperand (s : State) (x y : OpReg) (i k : Nat) (d : HWord) (strb : BitVec 4)
    (hi : 4 * i < operandSize x) (hk : k < operandSize y) :
    operandByte (writeOperand s x i d strb) y k =
      if y = x ∧ k / 4 = i ∧ strb.getLsbD (k % 4) = true then lane d (k % 4) else operandByte s y k := by
  have hlane : k % 4 < 4 := by omega
  rw [operandByte_eq_wordByte _ y k hk, operandWord_writeOperand s x y i _ d strb hi (by omega),
    operandByte_eq_wordByte s y k hk]
  by_cases h : y = x ∧ k / 4 = i
  · obtain ⟨rfl, rfl⟩ := h
    simp only [true_and, if_true, and_self]
    rw [laneMerge_byte _ _ _ _ hlane, wordOfBits_byte _ _ hlane]
  · rw [if_neg h, if_neg fun ⟨hx, hword, _⟩ => h ⟨hx, hword⟩]

/-- A write of word `i` of `x` sets the mask bits of its enabled bytes and changes no other. -/
theorem operandMask_writeOperand (s : State) (x y : OpReg) (i k : Nat) (d : HWord) (strb : BitVec 4)
    (hk : k < operandSize y) :
    operandMask (writeOperand s x i d strb) y k = true ↔
      operandMask s y k = true ∨ (y = x ∧ k / 4 = i ∧ strb.getLsbD (k % 4) = true) := by
  by_cases hxy : y = x
  · subst hxy
    have set (n : Nat) (m : BitVec n) (hk : k < n) : (maskSet m strb i).getLsbD k = true ↔
        m.getLsbD k = true ∨ (y = y ∧ k / 4 = i ∧ strb.getLsbD (k % 4) = true) := by
      rw [maskSet_getLsbD m strb i k hk]
      simp
    cases y <;> exact set _ _ hk
  · simp only [hxy, false_and, or_false, (writeOperand_other s i d strb hxy).2]

/-- A register has no mask bit at or above its size. -/
theorem operandMask_lt {s : State} {x : OpReg} {k : Nat} (h : operandMask s x k = true) : k < operandSize x := by
  cases x <;> exact BitVec.lt_of_getLsbD h

/-- An operand write of an idle block: the registers' enabled bytes and their mask bits, nothing else. -/
theorem step_operand_write {s : State} {x : OpReg} {i : Nat} {a : BitVec 16} {d : HWord} {strb : BitVec 4}
    {rest : List BusEvent} (hb : s.status.busy = false) (hi : 4 * i < operandSize x)
    (ha : a.toNat = operandBase x + 4 * i) (hp : s.pending = .write a d strb :: rest) :
    step s = .next { writeOperand s x i d strb with pending := rest, resp := some ⟨.okay, none⟩ } := by
  have halign : operandBase x % 4 = 0 := by cases x <;> rfl
  rw [step_idle_write hb hp (by omega), ha, locOf_operand s.cfg x i hi]
  cases x <;> rfl

/-! ### Mask bits fall only by CLEAR and reset (10_state.md R36) -/

/-- Two states with the same five masks. -/
def SameMasks (s t : State) : Prop := ∀ x k, operandMask t x k = operandMask s x k

theorem SameMasks.of_fields {s t : State} (hkey : t.keyM = s.keyM) (hstate : t.stateM = s.stateM)
    (hiv : t.ivM = s.ivM) (hnonce : t.nonceM = s.nonceM) (hctr : t.ctr0M = s.ctr0M) : SameMasks s t := by
  intro x k
  cases x <;> simp only [operandMask, *]

theorem routed_sameMasks (s : State) (m : Mode) : SameMasks s (routed s m) := by
  apply SameMasks.of_fields <;> simp

theorem Effect.sameMasks {s r : State} {i : Instr} (h : Effect s i r) (hi : i ≠ .clear) : SameMasks s r := by
  cases h with
  | clear => exact absurd rfl hi
  | route m => exact routed_sameMasks s m
  | run m => exact routed_sameMasks s m
  | _ => exact fun _ _ => rfl

/-- No command but CLEAR changes a mask bit. -/
theorem exec_sameMasks {i : Instr} {s t : State} (hi : i ≠ .clear) (h : exec i s = .next t) : SameMasks s t := by
  rcases exec_cases h with ⟨r, hr, rfl⟩ | ⟨e, rfl⟩ | ⟨e, m, -, -, rfl⟩
  · exact hr.sameMasks hi
  · exact fun _ _ => rfl
  · exact routed_sameMasks s m

/-- A completion that changes a mask bit is CLEAR's. -/
theorem complete_sameMasks {s t : State} (hi : decode s.cmd ≠ .ok .clear) (h : complete s = .next t) :
    SameMasks s t := by
  unfold complete at h
  cases hd : decode s.cmd with
  | ok i =>
    rw [hd] at h
    exact exec_sameMasks (fun hc => hi (hc ▸ hd)) h
  | error r =>
    rw [hd] at h
    cases h
    exact fun _ _ => rfl

/-- A host write sets mask bits or leaves them. -/
theorem operandMask_writeLoc {s : State} {x : OpReg} {k : Nat} (h : operandMask s x k = true) (d : HWord)
    (strb : BitVec 4) (l : Loc) : operandMask (writeLoc s d strb l) x k = true := by
  cases l with
  | operand y i => exact (operandMask_writeOperand s y x i k d strb (operandMask_lt h)).2 (.inl h)
  | cmd =>
    simp only [writeLoc]
    split
    · exact h
    · exact h
  | _ => exact h

theorem operandMask_hostWrite {s : State} {x : OpReg} {k : Nat} (h : operandMask s x k = true) (a : BitVec 16)
    (d : HWord) (strb : BitVec 4) : operandMask (hostWrite s a d strb) x k = true := by
  unfold hostWrite
  split
  · exact h
  · split
    · exact h
    · exact operandMask_writeLoc h d strb (locOf s.cfg a.toNat)

theorem hostRead_sameMasks (s : State) (a : BitVec 16) : SameMasks s (hostRead s a) := by
  unfold hostRead
  split
  · exact fun _ _ => rfl
  · split <;> exact fun _ _ => rfl

/-- Of the events of the outside world, only a reset clears a mask bit. -/
theorem operandMask_busStep {s : State} {x : OpReg} {k : Nat} (h : operandMask s x k = true)
    (hr : ¬ ∃ rest, s.pending = .reset :: rest) : operandMask (busStep s) x k = true := by
  unfold busStep
  match hp : s.pending with
  | [] => exact h
  | .read a :: rest => exact (hostRead_sameMasks _ a x k).trans h
  | .write a d strb :: rest => exact operandMask_hostWrite (s := { s with pending := rest }) h a d strb
  | .reset :: rest => exact absurd ⟨rest, hp⟩ hr

theorem waited_sameMasks (s : State) : SameMasks s (waited s) := by
  unfold waited
  split <;> exact fun _ _ => rfl

/-! ### What no command writes (10_state.md R33, R34, R37, R39, R41, R51, R54) -/

/-- `t` has the operand registers KEY, IV, NONCE and CTR0, the control registers but LEN, the graph, CMD, the
parameters and the model's own bus fields of `s`. -/
structure KeepsInputs (s t : State) : Prop where
  key : t.key = s.key
  iv : t.iv = s.iv
  nonce : t.nonce = s.nonce
  ctr0 : t.ctr0 = s.ctr0
  ctrl : t.ctrl = s.ctrl
  xlen : t.xlen = s.xlen
  routeNode : t.routeNode = s.routeNode
  nodes : t.nodes = s.nodes
  edges : t.edges = s.edges
  cmd : t.cmd = s.cmd
  cfg : t.cfg = s.cfg
  pending : t.pending = s.pending
  resp : t.resp = s.resp

/-- `t` has the message of `s`: LEN and every byte of MSG_IN. -/
def KeepsMessage (s t : State) : Prop := t.len = s.len ∧ ∀ a, a < 0x4000 → inByte t a = inByte s a

theorem KeepsMessage.of_fields {s t : State} (hlen : t.len = s.len) (hmem : t.mem = s.mem)
    (hgen : t.inGen = s.inGen) : KeepsMessage s t :=
  ⟨hlen, fun a _ => by rw [inByte, inByte, hmem, hgen]⟩

theorem routed_keepsInputs (s : State) (m : Mode) : KeepsInputs s (routed s m) := by
  constructor <;> simp

theorem routed_keepsMessage (s : State) (m : Mode) : KeepsMessage s (routed s m) :=
  .of_fields (routed_len s m) (routed_mem s m) (routed_inGen s m)

theorem modeResult_keepsInputs {s u : State} (h : KeepsInputs s u) (c : Cipher) (l : List Byte) (chain : Block)
    (ctrcur : Half) : KeepsInputs s (modeResult u c l chain ctrcur) := by
  obtain ⟨key, iv, nonce, ctr0, ctrl, xlen, routeNode, nodes, edges, cmd, cfg, pending, resp⟩ := h
  exact ⟨key, iv, nonce, ctr0, ctrl, xlen, routeNode, nodes, edges, cmd, cfg, pending, resp⟩

theorem modeResult_keepsMessage {s u : State} (h : KeepsMessage s u) (c : Cipher) (l : List Byte) (chain : Block)
    (ctrcur : Half) : KeepsMessage s (modeResult u c l chain ctrcur) :=
  ⟨h.1, fun a ha => (inByte_writeOutput u l a ha).trans (h.2 a ha)⟩

theorem Effect.keepsInputs {s r : State} {i : Instr} (h : Effect s i r) : KeepsInputs s r := by
  cases h with
  | route m => exact routed_keepsInputs s m
  | run m c l chain ctrcur => exact modeResult_keepsInputs (routed_keepsInputs s m) c l chain ctrcur
  | _ => constructor <;> rfl

theorem Effect.status_eq {s r : State} {i : Instr} (h : Effect s i r) (hi : i ≠ .clear) : r.status = s.status := by
  cases h with
  | clear => exact absurd rfl hi
  | route m => exact routed_status s m
  | run m => exact routed_status s m
  | _ => rfl

theorem Effect.keepsMessage {s r : State} {i : Instr} (h : Effect s i r) (hi : i ≠ .xfer) : KeepsMessage s r := by
  cases h with
  | xfer => exact absurd rfl hi
  | mode i c l chain ctrcur => exact modeResult_keepsMessage ⟨rfl, fun _ _ => rfl⟩ c l chain ctrcur
  | route m => exact routed_keepsMessage s m
  | run m c l chain ctrcur => exact modeResult_keepsMessage (routed_keepsMessage s m) c l chain ctrcur
  | _ => exact ⟨rfl, fun _ _ => rfl⟩

/-- A command's results and its completion flags leave the inputs; ERRCODE and STATUS are all that completion
writes. -/
theorem exec_keepsInputs {i : Instr} {s t : State} (h : exec i s = .next t) : KeepsInputs s t := by
  rcases exec_cases h with ⟨r, hr, rfl⟩ | ⟨e, rfl⟩ | ⟨e, m, -, -, rfl⟩
  · obtain ⟨key, iv, nonce, ctr0, ctrl, xlen, routeNode, nodes, edges, cmd, cfg, pending, resp⟩ := hr.keepsInputs
    exact ⟨key, iv, nonce, ctr0, ctrl, xlen, routeNode, nodes, edges, cmd, cfg, pending, resp⟩
  · constructor <;> rfl
  · constructor <;> simp

theorem exec_writeIgnored {i : Instr} {s t : State} (hi : i ≠ .clear) (h : exec i s = .next t) :
    t.status.writeIgnored = s.status.writeIgnored := by
  rcases exec_cases h with ⟨r, hr, rfl⟩ | ⟨e, rfl⟩ | ⟨e, m, -, -, rfl⟩
  · simp [hr.status_eq hi]
  · rfl
  · simp

theorem exec_keepsMessage {i : Instr} {s t : State} (hi : i ≠ .xfer) (h : exec i s = .next t) :
    KeepsMessage s t := by
  rcases exec_cases h with ⟨r, hr, rfl⟩ | ⟨e, rfl⟩ | ⟨e, m, -, -, rfl⟩
  · exact hr.keepsMessage hi
  · exact ⟨rfl, fun _ _ => rfl⟩
  · exact routed_keepsMessage s m

/-! ### RK is never read (10_state.md R45) -/

/-- `s` with another RK. -/
def replaceRk (s : State) (r : Vector Block 11) : State := { s with rk := r }

/-- What a command on `s` and the same command on `replaceRk s r` may answer as results: the same state but for RK,
which neither wrote, or the same state, in which RK is the expansion of KEY. -/
def SameResult (s : State) (r : Vector Block 11) (u u' : State) : Prop :=
  (u.rk = s.rk ∧ u' = replaceRk u r) ∨ (u.rk = expandKey s.key ∧ u' = u)

/-- The two runs give the same error, or results that agree as `SameResult` says. -/
inductive SameAnswer (s : State) (r : Vector Block 11) : Except CmdError State → Except CmdError State → Prop
  | ok {u u' : State} (h : SameResult s r u u') : SameAnswer s r (.ok u) (.ok u')
  | error (e : CmdError) : SameAnswer s r (.error e) (.error e)

theorem SameAnswer.guarded {s : State} {r : Vector Block 11} {u u' : State} (l : List (Option CmdError))
    (h : SameResult s r u u') : SameAnswer s r (guarded l u) (guarded l u') := by
  induction l with
  | nil => exact .ok h
  | cons c l ih =>
    cases c with
    | none => exact ih
    | some e => exact .error e

/-- A completion writes the same flags into both answers. -/
theorem SameAnswer.finish {s b t : State} {r : Vector Block 11} {x x' : Except CmdError State}
    (h : SameAnswer s r x x') (hb : b.rk = s.rk) (ht : finish b x = .next t) :
    ∃ t', finish (replaceRk b r) x' = .next t' ∧ SameResult s r t t' := by
  cases h with
  | ok h =>
    cases ht
    rcases h with ⟨hrk, rfl⟩ | ⟨hrk, rfl⟩
    · exact ⟨_, rfl, .inl ⟨hrk, rfl⟩⟩
    · exact ⟨_, rfl, .inr ⟨hrk, rfl⟩⟩
  | error e =>
    cases ht
    exact ⟨_, rfl, .inl ⟨hb, rfl⟩⟩

theorem ctrlCipher_replaceRk (s : State) (r : Vector Block 11) : ctrlCipher (replaceRk s r) = ctrlCipher s := rfl

theorem stripMessage_replaceRk (s : State) (r : Vector Block 11) (l : List Byte) :
    stripMessage (replaceRk s r) l = stripMessage s l := rfl

theorem routed_replaceRk (s : State) (r : Vector Block 11) (m : Mode) :
    routed (replaceRk s r) m = replaceRk (routed s m) r := by
  have node : routeNodeOk (replaceRk s r) = routeNodeOk s := rfl
  unfold routed
  rw [node]
  split <;> rfl

/-- A mode command writes RK with AES only. -/
theorem modeResult_sameResult (s : State) (r : Vector Block 11) (c : Cipher) (l : List Byte) (chain : Block)
    (ctrcur : Half) :
    SameResult s r (modeResult s c l chain ctrcur) (modeResult (replaceRk s r) c l chain ctrcur) := by
  cases c with
  | aes => exact .inr ⟨rfl, rfl⟩
  | xor => exact .inl ⟨rfl, rfl⟩

theorem decResult_sameAnswer (c : Cipher) (s : State) (r : Vector Block 11) (plain : List Byte) (chain : Block) :
    SameAnswer s r (decResult c s plain chain) (decResult c (replaceRk s r) plain chain) := by
  unfold decResult
  rw [stripMessage_replaceRk]
  cases stripMessage s plain with
  | error e => exact .error e
  | ok z => exact .ok (modeResult_sameResult s r c z chain s.ctrcur)

/-- The refused values of CIPHER are refused in both runs. -/
theorem SameAnswer.cipher {s : State} {r : Vector Block 11} {f f' : Cipher → Except CmdError State}
    (h : ∀ c, SameAnswer s r (f c) (f' c)) :
    SameAnswer s r
      (match ctrlCipher s with | none => .error .illegalCommand | some c => f c)
      (match ctrlCipher (replaceRk s r) with | none => .error .illegalCommand | some c => f' c) := by
  rw [ctrlCipher_replaceRk]
  cases ctrlCipher s with
  | none => exact .error _
  | some c => exact h c

theorem ecbEncBody_sameAnswer (s : State) (r : Vector Block 11) :
    SameAnswer s r (ecbEncBody s) (ecbEncBody (replaceRk s r)) :=
  .cipher fun c => .guarded _ (modeResult_sameResult s r c _ s.chain s.ctrcur)

theorem cbcEncBody_sameAnswer (s : State) (r : Vector Block 11) :
    SameAnswer s r (cbcEncBody s) (cbcEncBody (replaceRk s r)) :=
  .cipher fun c => .guarded _ (modeResult_sameResult s r c _ _ s.ctrcur)

theorem cbcEncTruncBody_sameAnswer (s : State) (r : Vector Block 11) :
    SameAnswer s r (cbcEncTruncBody s) (cbcEncTruncBody (replaceRk s r)) :=
  .cipher fun c => .guarded _ (modeResult_sameResult s r c _ _ s.ctrcur)

theorem ctrBody_sameAnswer (s : State) (r : Vector Block 11) :
    SameAnswer s r (ctrBody s) (ctrBody (replaceRk s r)) :=
  .cipher fun c => .guarded _ (modeResult_sameResult s r c _ s.chain _)

/-- Checks that pass or fail in both runs leave the answers behind them to agree. -/
theorem SameAnswer.checked {s : State} {r : Vector Block 11} {x x' : Except CmdError State}
    (l : List (Option CmdError)) (h : SameAnswer s r x x') :
    SameAnswer s r
      (match Machine.guarded l () with | .error e => .error e | .ok () => x)
      (match Machine.guarded l () with | .error e => .error e | .ok () => x') := by
  cases Machine.guarded l () with
  | error e => exact .error e
  | ok _ => exact h

theorem ecbDecBody_sameAnswer (s : State) (r : Vector Block 11) :
    SameAnswer s r (ecbDecBody s) (ecbDecBody (replaceRk s r)) :=
  .cipher fun c => .checked _ (decResult_sameAnswer c s r _ s.chain)

theorem cbcDecBody_sameAnswer (s : State) (r : Vector Block 11) :
    SameAnswer s r (cbcDecBody s) (cbcDecBody (replaceRk s r)) :=
  .cipher fun c => .checked _ (decResult_sameAnswer c s r _ _)

theorem SameAnswer.ite {s : State} {r : Vector Block 11} {x x' y y' : Except CmdError State} (p : Prop)
    [Decidable p] (hx : SameAnswer s r x x') (hy : SameAnswer s r y y') :
    SameAnswer s r (if p then x else y) (if p then x' else y') := by
  split
  · exact hx
  · exact hy

theorem runBody_sameAnswer (s : State) (r : Vector Block 11) (m : Mode) :
    SameAnswer s r (runBody s m) (runBody (replaceRk s r) m) := by
  cases m with
  | ecb => exact .ite _ (ecbDecBody_sameAnswer s r) (ecbEncBody_sameAnswer s r)
  | cbc =>
    exact .ite _ (cbcDecBody_sameAnswer s r)
      (.ite _ (cbcEncTruncBody_sameAnswer s r) (cbcEncBody_sameAnswer s r))
  | ctr => exact ctrBody_sameAnswer s r

/-- ROUTE and RUN read RK no more than the command RUN dispatches to. -/
theorem SameAnswer.routed {s : State} {r : Vector Block 11} {m : Mode} {x x' : Except CmdError State}
    (h : SameAnswer (routed s m) r x x') : SameAnswer s r x x' := by
  cases h with
  | error e => exact .error e
  | ok h => exact .ok (by simpa only [SameResult, routed_rk, routed_key] using h)

theorem execRoute_sameResult {s t : State} (r : Vector Block 11) (h : execRoute s = .next t) :
    ∃ t', execRoute (replaceRk s r) = .next t' ∧ SameResult s r t t' := by
  have mode : ctrlMode (replaceRk s r) = ctrlMode s := rfl
  have ok (m : Mode) : routeOk (replaceRk s r) m = routeOk s m := rfl
  revert h
  unfold execRoute
  rw [mode]
  cases ctrlMode s with
  | none => exact (SameAnswer.error _).finish rfl
  | some m =>
    simp only [routed_replaceRk, ok]
    exact (SameAnswer.ite _ (.ok (.inl ⟨routed_rk s m, rfl⟩)) (.error _)).finish (routed_rk s m)

theorem execRun_sameResult {s t : State} (r : Vector Block 11) (h : execRun s = .next t) :
    ∃ t', execRun (replaceRk s r) = .next t' ∧ SameResult s r t t' := by
  have mode : ctrlMode (replaceRk s r) = ctrlMode s := rfl
  have ok (m : Mode) : routeOk (replaceRk s r) m = routeOk s m := rfl
  revert h
  unfold execRun
  rw [mode, ctrlCipher_replaceRk]
  cases ctrlMode s with
  | none => exact (SameAnswer.error _).finish rfl
  | some m =>
    cases ctrlCipher s with
    | none => exact (SameAnswer.error _).finish rfl
    | some c =>
      simp only [routed_replaceRk, ok]
      exact (SameAnswer.ite _ (runBody_sameAnswer (routed s m) r m).routed (.error _)).finish (routed_rk s m)

/-- Two runs of a command from states that differ in RK only. -/
theorem exec_sameResult {i : Instr} {s t : State} (r : Vector Block 11) (h : exec i s = .next t) :
    ∃ t', exec i (replaceRk s r) = .next t' ∧ SameResult s r t t' := by
  have answer {x x'} (ht : finish s x = .next t) (hx : SameAnswer s r x x') :
      ∃ t', finish (replaceRk s r) x' = .next t' ∧ SameResult s r t t' := hx.finish rfl ht
  cases i with
  | nop | clear | xtime | gmul =>
    cases h
    exact ⟨_, rfl, .inl ⟨rfl, rfl⟩⟩
  | xfer | subb | shrow | mixcol | invsubb | invshrow | invmixcol | xordemo =>
    exact answer h (.guarded _ (.inl ⟨rfl, rfl⟩))
  | expand | kstep | ark | encb | decb | trace => exact answer h (.guarded _ (.inr ⟨rfl, rfl⟩))
  | ecbenc => exact answer h (ecbEncBody_sameAnswer s r)
  | ecbdec => exact answer h (ecbDecBody_sameAnswer s r)
  | cbcenc => exact answer h (cbcEncBody_sameAnswer s r)
  | cbcenct => exact answer h (cbcEncTruncBody_sameAnswer s r)
  | cbcdec => exact answer h (cbcDecBody_sameAnswer s r)
  | ctrx => exact answer h (ctrBody_sameAnswer s r)
  | route => exact execRoute_sameResult r h
  | run => exact execRun_sameResult r h

end Sys2Proof.Machine

namespace Sys2Proof.Proofs

open Sys2Proof.Machine Sys2Proof.Safety

/-! ### The obligations -/

/-- Settles O13: each word is its fields side by side. -/
theorem statusWordLayouts : Obligations.StatusWordLayouts := by
  unfold Obligations.StatusWordLayouts
  intro s
  have flag := statusToBits_getLsbD s.status
  refine ⟨fun k hk => ?_, readLoc_valid1_counter s, flag 0, flag 1, flag 2, flag 3, flag 4,
    fun k hk => ?_, paramBits_fields s.cfg⟩
  · obtain ⟨key, state⟩ := readLoc_valid0_bits s k hk
    exact ⟨key, state, readLoc_valid1_iv s k hk⟩
  · obtain ⟨j, rfl⟩ := Nat.exists_eq_add_of_le' hk
    exact flag (j + 5)

/-- Settles O16: the write by its words, and then what each command and each bus event does to a mask bit. -/
theorem operandWritesAndMasks : Obligations.OperandWritesAndMasks := by
  unfold Obligations.OperandWritesAndMasks
  refine ⟨fun s x i a d strb rest hb hi ha hp => ?_, fun s t x k hset hstep hfell => ?_,
    fun i s t x k hi h => exec_sameMasks hi h x k⟩
  · refine ⟨_, step_operand_write hb hi ha hp, ?_, fun y k hk => ?_⟩
    · cases x <;> rfl
    · have hbyte := operandByte_writeOperand s x y i k d strb hi hk
      have hmask := operandMask_writeOperand s x y i k d strb hk
      cases y <;> exact ⟨hbyte, hmask⟩
  · by_cases hc : completes s
    · left
      by_contra hclear
      rw [step_complete hc] at hstep
      have kept := complete_sameMasks (fun hd => hclear ⟨hc, hd⟩) hstep x k
      simp [hset, hfell] at kept
    · right
      refine ⟨hc, ?_⟩
      by_contra hr
      rw [step_bus hc] at hstep
      cases hstep
      rw [← waited_pending] at hr
      have kept := operandMask_busStep ((waited_sameMasks s x k).trans hset) hr
      simp [hfell] at kept

/-- Settles O18: the write is `statusWrite` on the idle block. -/
theorem statusWriteClearsStickyBits : Obligations.StatusWriteClearsStickyBits := by
  unfold Obligations.StatusWriteClearsStickyBits
  intro s d strb rest hb hp
  exact ⟨_, step_idle_write hb hp rfl, rfl, hb, rfl, rfl, statusWrite_errSticky s.status d strb,
    statusWrite_writeIgnored s.status d strb⟩

/-- Settles O19: each register is a `lane_definedBits` of its own width. -/
theorem controlWritesKeepDefinedBits : Obligations.ControlWritesKeepDefinedBits := by
  unfold Obligations.ControlWritesKeepDefinedBits
  intro s d strb rest hb
  refine ⟨fun hp => ?_, fun hp => ?_, fun hp => ?_, fun hp => ?_⟩
  · exact ⟨_, step_idle_write hb hp rfl, rfl, lane_definedBits s.ctrl d strb⟩
  · exact ⟨_, step_idle_write hb hp rfl, rfl, lane_definedBits s.len d strb⟩
  · exact ⟨_, step_idle_write hb hp rfl, rfl, lane_definedBits s.xlen d strb⟩
  · exact ⟨_, step_idle_write hb hp rfl, rfl, lane_definedBits s.routeNode d strb⟩

/-- Settles O20: the address names the entry, and the write puts its merged lanes. -/
theorem tableWritesStoreTheEntry : Obligations.TableWritesStoreTheEntry := by
  unfold Obligations.TableWritesStoreTheEntry
  intro s a d strb rest i hcfg hb hp
  refine ⟨fun hi ha => ?_, fun hi ha => ?_⟩
  · refine ⟨_, step_idle_write hb hp (by omega), ?_⟩
    rw [ha, locOf_node s.cfg i hcfg hi]
    exact ⟨rfl, fun n k hk => lane_tableGet_put s.nodes i n d strb k hk⟩
  · refine ⟨_, step_idle_write hb hp (by omega), ?_⟩
    rw [ha, locOf_edge s.cfg i hcfg hi]
    exact ⟨rfl, fun j k hk => lane_tableGet_put s.edges i j d strb k hk⟩

/-- Settles O25, by the three ways a command completes. -/
theorem commandsNeverWriteTheirInputs : Obligations.CommandsNeverWriteTheirInputs := by
  unfold Obligations.CommandsNeverWriteTheirInputs
  intro i s t h
  obtain ⟨key, iv, nonce, ctr0, ctrl, xlen, routeNode, nodes, edges, cmd, cfg, pending, resp⟩ := exec_keepsInputs h
  exact ⟨key, iv, nonce, ctr0, ctrl, xlen, routeNode, nodes, edges, cmd, cfg, pending, resp,
    fun hi => exec_writeIgnored hi h, fun hi => exec_keepsMessage hi h⟩

/-- Settles O26: the two runs agree as `SameResult` says. -/
theorem rkIsNeverRead : Obligations.RkIsNeverRead := by
  unfold Obligations.RkIsNeverRead
  intro i s t r h
  obtain ⟨t', ht', ⟨hrk, rfl⟩ | ⟨hrk, rfl⟩⟩ := exec_sameResult r h
  · exact .inl ⟨hrk, ht'⟩
  · exact .inr ⟨hrk, ht'⟩

end Sys2Proof.Proofs
end

section
/-! PROOF. The host bus of 20_memory.md: the address map read both ways, what each location reads as, and the
transactions that leave the block as it is. -/

namespace Sys2Proof.Machine

open Sys2Proof.Safety

/-! ### A host transaction as a step (20_memory.md R85, R88, R90) -/

theorem waited_busy {s : State} (h : s.status.busy = true) : waited s = { s with wait := s.wait - 1 } := if_pos h

theorem run_two {s t u : State} (h : step s = .next t) (h' : step t = .next u) :
    Sys2Proof.core.run 2 s = .next u := by
  have first : Sys2Proof.core.step s = .next t := h
  have second : Sys2Proof.core.step t = .next u := h'
  simp only [Host.Core.run, first, second]

/-- With no command due, a step with a read issued is that read. -/
theorem step_read {s : State} {a : BitVec 16} {rest : List BusEvent} (h : ¬ completes s)
    (hp : s.pending = .read a :: rest) : step s = .next (hostRead { waited s with pending := rest } a) := by
  rw [step_bus h, busStep, waited_pending, hp]
  rfl

/-- With no command due, a step with a write issued is that write. -/
theorem step_write {s : State} {a : BitVec 16} {d : HWord} {strb : BitVec 4} {rest : List BusEvent}
    (h : ¬ completes s) (hp : s.pending = .write a d strb :: rest) :
    step s = .next (hostWrite { waited s with pending := rest } a d strb) := by
  rw [step_bus h, busStep, waited_pending, hp]
  rfl

theorem hostRead_misaligned (s : State) {a : BitVec 16} (h : a.toNat % 4 ≠ 0) :
    hostRead s a = { s with resp := some ⟨.buserr, some 0⟩ } := if_pos h

theorem hostWrite_misaligned (s : State) {a : BitVec 16} (d : HWord) (strb : BitVec 4) (h : a.toNat % 4 ≠ 0) :
    hostWrite s a d strb = { s with resp := some ⟨.buserr, none⟩ } := if_pos h

/-- A read of what is no result answers the current value, busy or not. -/
theorem hostRead_current (s : State) {a : BitVec 16} (ha : a.toNat % 4 = 0)
    (hl : isResult (locOf s.cfg a.toNat) = false) :
    hostRead s a = { s with resp := some ⟨.okay, some (readLoc s (locOf s.cfg a.toNat))⟩ } := by
  rw [hostRead, if_neg (not_not_intro ha), hl, Bool.and_false, if_neg Bool.false_ne_true]

/-- A read writes the response and the counter of free values, nothing else. -/
theorem hostRead_frame (s : State) (a : BitVec 16) :
    ∃ r d, hostRead s a = { s with resp := some r, draws := d } := by
  unfold hostRead
  split
  · exact ⟨_, _, rfl⟩
  · split <;> exact ⟨_, _, rfl⟩

/-- The response of a read while idle. -/
def idleReadResp (s : State) (a : BitVec 16) : BusResp :=
  if a.toNat % 4 ≠ 0 then ⟨.buserr, some 0⟩ else ⟨.okay, some (readLoc s (locOf s.cfg a.toNat))⟩

theorem hostRead_idle {s : State} (a : BitVec 16) (h : s.status.busy = false) :
    hostRead s a = { s with resp := some (idleReadResp s a) } := by
  unfold hostRead idleReadResp
  rw [h, Bool.false_and, if_neg Bool.false_ne_true]
  split <;> rfl

/-- A read while idle answers from the block alone, whatever is queued and was answered last. -/
theorem step_read_idle {s : State} {a : BitVec 16} {rest : List BusEvent} (h : s.status.busy = false)
    (hp : s.pending = .read a :: rest) :
    step s = .next { s with pending := rest, resp := some (idleReadResp s a) } := by
  rw [step_idle h hp]
  exact congrArg Host.Outcome.next (hostRead_idle a h)

/-- A write to a location the host may only read, or to none, does nothing (20_memory.md R86). -/
theorem writeLoc_readOnly (s : State) (d : HWord) (strb : BitVec 4) {l : Loc}
    (h : l = .reserved ∨ isResult l = true ∨ l = .param) : writeLoc s d strb l = s := by
  rcases h with rfl | h | rfl
  · rfl
  · cases l with
    | cmd | ctrl | status | len | xlen | routeNode | operand | node | edge | msgIn =>
      exact absurd h Bool.false_ne_true
    | _ => rfl
  · rfl

/-! ### The address map, from an address to what stands there (20_memory.md R84) -/

/-- The ranges of the address map, and what stands at an address of each. -/
inductive MapEntry (p : Params) (a : Nat) : Loc → Prop
  | control (h : a < 0x0100) : MapEntry p a (controlLoc (a / 4))
  | operand (h : 0x0100 ≤ a) (h' : a < 0x0200) : MapEntry p a (operandLoc ((a - 0x0100) / 4))
  | rk (h : 0x0200 ≤ a) (h' : a < 0x02B0) : MapEntry p a (.rk ((a - 0x0200) / 16) ((a - 0x0200) / 4 % 4))
  | tr (h : 0x0300 ≤ a) (h' : a < 0x0350) : MapEntry p a (.tr ((a - 0x0300) / 16) ((a - 0x0300) / 4 % 4))
  | ksd (h : 0x0400 ≤ a) (h' : a < 0x0430) : MapEntry p a (.ksd ((a - 0x0400) / 4))
  | node (h : 0x0800 ≤ a) (h' : a < 0x0C00) (hn : (a - 0x0800) / 4 < p.nNodes) :
      MapEntry p a (.node ((a - 0x0800) / 4))
  | edge (h : 0x0C00 ≤ a) (h' : a < 0x4000) (hn : (a - 0x0C00) / 4 < p.nEdges) :
      MapEntry p a (.edge ((a - 0x0C00) / 4))
  | msgIn (h : 0x4000 ≤ a) (h' : a < 0x8000) (hn : a - 0x4000 < p.msgbufBytes) :
      MapEntry p a (.msgIn (a - 0x4000))
  | msgOut (h : 0x8000 ≤ a) (hn : a - 0x8000 < p.msgbufBytes + 16) : MapEntry p a (.msgOut (a - 0x8000))
  | reserved (h : (0x02B0 ≤ a ∧ a < 0x0300) ∨ (0x0350 ≤ a ∧ a < 0x0400) ∨ (0x0430 ≤ a ∧ a < 0x0800) ∨
      (0x0800 ≤ a ∧ a < 0x0C00 ∧ p.nNodes ≤ (a - 0x0800) / 4) ∨
      (0x0C00 ≤ a ∧ a < 0x4000 ∧ p.nEdges ≤ (a - 0x0C00) / 4) ∨
      (0x4000 ≤ a ∧ a < 0x8000 ∧ p.msgbufBytes ≤ a - 0x4000) ∨
      (0x8000 ≤ a ∧ p.msgbufBytes + 16 ≤ a - 0x8000)) : MapEntry p a .reserved

theorem mapEntry_locOf (p : Params) (a : Nat) : MapEntry p a (locOf p a) := by
  unfold locOf
  repeat' split
  · exact .control (by omega)
  · exact .operand (by omega) (by omega)
  · exact .rk (by omega) (by omega)
  · exact .reserved (by omega)
  · exact .tr (by omega) (by omega)
  · exact .reserved (by omega)
  · exact .ksd (by omega) (by omega)
  · exact .reserved (by omega)
  · exact .node (by omega) (by omega) (by omega)
  · exact .reserved (by omega)
  · exact .edge (by omega) (by omega) (by omega)
  · exact .reserved (by omega)
  · exact .msgIn (by omega) (by omega) (by omega)
  · exact .reserved (by omega)
  · exact .msgOut (by omega) (by omega)
  · exact .reserved (by omega)

/-- What the control registers are: the reserved offsets, the results and PARAM among them. -/
theorem controlLoc_kind (k : Nat) :
    (controlLoc k = .reserved ↔ 14 ≤ k) ∧
      (isResult (controlLoc k) = true ↔ k ∈ [3, 5, 7, 8, 9, 11, 12]) ∧ (controlLoc k = .param ↔ k = 13) := by
  match k with
  | 0 | 1 | 2 | 3 | 4 | 5 | 6 | 7 | 8 | 9 | 10 | 11 | 12 | 13 => decide
  | k + 14 =>
    have hk : controlLoc (k + 14) = .reserved := rfl
    simp [hk, isResult]

/-- What the operand registers' range holds: operands, then the two result registers CHAIN and CTRCUR. -/
theorem operandLoc_kind (k : Nat) :
    (operandLoc k = .reserved ↔ 22 ≤ k) ∧ (isResult (operandLoc k) = true ↔ 16 ≤ k ∧ k < 22) ∧
      operandLoc k ≠ .param := by
  unfold operandLoc
  repeat' split
  all_goals
    simp only [isResult, reduceCtorEq, Bool.false_eq_true, false_iff, true_iff, ne_eq, not_false_eq_true, and_true]
    omega

/-- The reserved offsets (20_memory.md R84). -/
theorem locOf_eq_reserved_iff {p : Params} {a : Nat} (hp : p.legal) (halign : a % 4 = 0) :
    locOf p a = .reserved ↔
      (0x0038 ≤ a ∧ a < 0x0100) ∨ (0x0158 ≤ a ∧ a < 0x0200) ∨ (0x02B0 ≤ a ∧ a < 0x0300) ∨
        (0x0350 ≤ a ∧ a < 0x0400) ∨ (0x0430 ≤ a ∧ a < 0x0800) ∨
        (0x0800 + 4 * p.nNodes ≤ a ∧ a < 0x0C00) ∨ (0x0C00 + 4 * p.nEdges ≤ a ∧ a < 0x4000) ∨
        (0x4000 + p.msgbufBytes ≤ a ∧ a < 0x8000) ∨ 0x8000 + p.msgbufBytes + 16 ≤ a := by
  obtain ⟨-, -, hm, -, hn, -, he⟩ := hp
  have entry := mapEntry_locOf p a
  generalize locOf p a = l at entry ⊢
  cases entry with
  | control =>
    rw [(controlLoc_kind _).1]
    omega
  | operand =>
    rw [(operandLoc_kind _).1]
    omega
  | reserved =>
    simp only [true_iff]
    omega
  | rk | tr | ksd | node | edge | msgIn | msgOut =>
    simp only [reduceCtorEq, false_iff]
    omega

/-- The locations a read of which is UNSPECIFIED while busy (20_memory.md R84, R88). -/
theorem isResult_locOf_iff {p : Params} {a : Nat} (halign : a % 4 = 0) :
    isResult (locOf p a) = true ↔
      a ∈ [0x000C, 0x0014, 0x001C, 0x0020, 0x0024, 0x002C, 0x0030] ∨ (0x0140 ≤ a ∧ a < 0x0158) ∨
        (0x0200 ≤ a ∧ a < 0x02B0) ∨ (0x0300 ≤ a ∧ a < 0x0350) ∨ (0x0400 ≤ a ∧ a < 0x0430) ∨
        (0x8000 ≤ a ∧ a < 0x8000 + p.msgbufBytes + 16) := by
  have entry := mapEntry_locOf p a
  generalize locOf p a = l at entry ⊢
  simp only [List.mem_cons, List.not_mem_nil, or_false]
  cases entry with
  | control =>
    rw [(controlLoc_kind _).2.1]
    simp only [List.mem_cons, List.not_mem_nil, or_false]
    omega
  | operand =>
    rw [(operandLoc_kind _).2.1]
    omega
  | rk | tr | ksd | msgOut =>
    simp only [isResult, true_iff]
    omega
  | node | edge | msgIn | reserved =>
    simp only [isResult, Bool.false_eq_true, false_iff]
    omega

theorem locOf_eq_param_iff {p : Params} {a : Nat} (halign : a % 4 = 0) : locOf p a = .param ↔ a = 0x0034 := by
  have entry := mapEntry_locOf p a
  generalize locOf p a = l at entry ⊢
  cases entry with
  | control =>
    rw [(controlLoc_kind _).2.2]
    omega
  | operand =>
    simp only [(operandLoc_kind _).2.2, false_iff]
    omega
  | _ =>
    simp only [reduceCtorEq, false_iff]
    omega

/-! ### The address map, from a location to its address -/

theorem locOf_chain (p : Params) (i : Nat) (hi : i < 4) : locOf p (0x0140 + 4 * i) = .chain i := by
  interval_cases i <;> rfl

theorem locOf_ctrcur (p : Params) (i : Nat) (hi : i < 2) : locOf p (0x0150 + 4 * i) = .ctrcur i := by
  interval_cases i <;> rfl

theorem locOf_rk (p : Params) (r i : Nat) (hr : r < 11) (hi : i < 4) :
    locOf p (0x0200 + 16 * r + 4 * i) = .rk r i := by
  have round : (0x0200 + 16 * r + 4 * i - 0x0200) / 16 = r := by omega
  have word : (0x0200 + 16 * r + 4 * i - 0x0200) / 4 % 4 = i := by omega
  rw [locOf, if_neg (by omega), if_neg (by omega), if_pos (by omega), if_pos (by omega), round, word]

theorem locOf_tr (p : Params) (r i : Nat) (hr : r < 5) (hi : i < 4) :
    locOf p (0x0300 + 16 * r + 4 * i) = .tr r i := by
  have block : (0x0300 + 16 * r + 4 * i - 0x0300) / 16 = r := by omega
  have word : (0x0300 + 16 * r + 4 * i - 0x0300) / 4 % 4 = i := by omega
  rw [locOf, if_neg (by omega), if_neg (by omega), if_neg (by omega), if_pos (by omega), if_pos (by omega),
    block, word]

theorem locOf_ksd (p : Params) (k : Nat) (hk : k < 12) : locOf p (0x0400 + 4 * k) = .ksd k := by
  interval_cases k <;> rfl

theorem locOf_msgIn (p : Params) (o : Nat) (hp : p.legal) (h : o < p.msgbufBytes) :
    locOf p (0x4000 + o) = .msgIn o := by
  obtain ⟨-, -, hm, -, -, -, -⟩ := hp
  have offset : 0x4000 + o - 0x4000 = o := by omega
  rw [locOf, if_neg (by omega), if_neg (by omega), if_neg (by omega), if_neg (by omega), if_neg (by omega),
    if_neg (by omega), if_neg (by omega), if_pos (by omega), offset, if_pos h]

theorem locOf_msgOut (p : Params) (o : Nat) (h : o < p.msgbufBytes + 16) :
    locOf p (0x8000 + o) = .msgOut o := by
  have offset : 0x8000 + o - 0x8000 = o := by omega
  rw [locOf, if_neg (by omega), if_neg (by omega), if_neg (by omega), if_neg (by omega), if_neg (by omega),
    if_neg (by omega), if_neg (by omega), if_neg (by omega), offset, if_pos h]

/-! ### The byte lanes of what is read (20_memory.md R82) -/

theorem lane_of_eq_word {v : HWord} {w : Word} {k : Nat} (hk : k < 4) (h : v = wordToBits w) :
    lane v k = wordByte w k := by
  rw [h, lane_wordToBits w k hk]

/-- Word `i` of a block register has its bytes `4i .. 4i+3` in lanes 0 to 3. -/
theorem lane_of_eq_blockWord {v : HWord} {x : Block} {i k : Nat} (hk : k < 4)
    (h : v = wordToBits (blockWord x i)) : lane v k = blockByte x (4 * i + k) := by
  have word : (4 * i + k) / 4 = i := by omega
  have byte : (4 * i + k) % 4 = k := by omega
  rw [lane_of_eq_word hk h, blockByte, word, byte]

theorem lane_readLoc_operand (s : State) (x : OpReg) {i k : Nat} (hi : 4 * i < operandSize x) (hk : k < 4) :
    lane (readLoc s (.operand x i)) k = operandByte s x (4 * i + k) := by
  have size : operandSize x % 4 = 0 := by cases x <;> rfl
  have word : (4 * i + k) / 4 = i := by omega
  have byte : (4 * i + k) % 4 = k := by omega
  rw [operandByte_eq_wordByte s x _ (by omega), word, byte]
  exact lane_wordToBits _ k hk

theorem readLoc_rk (s : State) (r : Fin 11) (i : Nat) :
    readLoc s (.rk r i) = wordToBits (blockWord s.rk[r] i) := by
  simp [readLoc]

theorem detailWord_source (d : KeyDetail) (i : Nat) (hi : i < 4) : detailWord d i = blockWord d.source i := by
  interval_cases i <;> rfl

theorem detailWord_derived (d : KeyDetail) (i : Nat) (hi : i < 4) :
    detailWord d (8 + i) = blockWord d.derived i := by
  interval_cases i <;> rfl

theorem lane_readLoc_msgIn (s : State) (o : Nat) {k : Nat} (hk : k < 4) :
    lane (readLoc s (.msgIn o)) k = inByte s (o + k) := by
  refine (lane_wordToBits _ k hk).trans ?_
  interval_cases k <;> rfl

theorem lane_readLoc_msgOut (s : State) (o : Nat) {k : Nat} (hk : k < 4) :
    lane (readLoc s (.msgOut o)) k = outByte s (o + k) := by
  refine (lane_wordToBits _ k hk).trans ?_
  interval_cases k <;> rfl

/-! ### The bytes after a write of a buffer word (20_memory.md R83) -/

theorem memByte_writeBufferWord (m : Memory) (a : Nat) (w : Word) (strb : BitVec 4) (g c : Nat) :
    memByte (writeBufferWord m a w strb) g c =
      if a ≤ c ∧ c < a + 4 ∧ strb.getLsbD (c - a) = true then wordByte w (c - a) else memByte m g c := by
  simp only [writeBufferWord, memByte_putLane]
  by_cases h : a ≤ c ∧ c < a + 4
  · obtain ⟨k, rfl⟩ := Nat.exists_eq_add_of_le h.1
    have hk : k < 4 := by omega
    interval_cases k <;> simp [wordByte]
  · rw [if_neg (by omega), if_neg (by omega), if_neg (by omega), if_neg (by omega), if_neg (by tauto)]

end Sys2Proof.Machine

namespace Sys2Proof.Proofs

open Sys2Proof.Machine Sys2Proof.Safety

/-! ### The obligations on the host bus -/

/-- Settles O10: neither kind of misaligned transaction looks at the block. -/
theorem misalignedGetsBusErr : Obligations.MisalignedGetsBusErr := by
  unfold Obligations.MisalignedGetsBusErr
  intro s a rest hc ha
  refine ⟨fun hp => ?_, fun d strb hp => ?_⟩
  · rw [step_read hc hp, hostRead_misaligned _ ha]
  · rw [step_write hc hp, hostWrite_misaligned _ d strb ha]

/-- Settles O12: what is no result is read as it stands, and waiting changes no location. -/
theorem busyReadsOfInputs : Obligations.BusyReadsOfInputs := by
  unfold Obligations.BusyReadsOfInputs
  intro s a rest hc hb hp ha hl
  rw [step_read hc hp, waited_busy hb]
  exact congrArg Host.Outcome.next (hostRead_current _ ha hl)

/-- Settles O14: a read while idle answers `idleReadResp`, which no read changes. -/
theorem readsHaveNoSideEffects : Obligations.ReadsHaveNoSideEffects := by
  unfold Obligations.ReadsHaveNoSideEffects
  intro s a rest hc hp
  cases hb : s.status.busy with
  | true =>
    obtain ⟨r, d, hread⟩ := hostRead_frame { waited s with pending := rest } a
    exact ⟨r, d, by rw [step_read hc hp, hread], nofun⟩
  | false =>
    have first := step_read_idle hb hp
    exact ⟨idleReadResp s a, s.draws, by rw [waited_idle hb, first],
      fun _ => ⟨rfl, fun rest' hrest => run_two first (step_read_idle hb hrest)⟩⟩

/-- Settles O15: the address names the location, and the location's word has its bytes in order. -/
theorem readsPackBytesBigEndian : Obligations.ReadsPackBytesBigEndian := by
  unfold Obligations.ReadsPackBytesBigEndian
  intro s a rest hcfg hb hp ha
  have held {n : Nat} {l : Loc} (h : a.toNat = n) (hl : locOf s.cfg n = l) :
      readLoc s (locOf s.cfg a.toNat) = readLoc s l := by rw [h, hl]
  refine ⟨readLoc s (locOf s.cfg a.toNat), step_idle_read hb hp ha, rfl, (held · rfl), (held · rfl), (held · rfl),
    (held · rfl), (held · rfl), (held · rfl), (held · rfl), (held · rfl), (held · rfl), (held · rfl), (held · rfl),
    (held · rfl), (held · rfl), (held · rfl), fun n hn h => held h (locOf_node s.cfg n hcfg hn),
    fun j hj h => held h (locOf_edge s.cfg j hcfg hj), fun i k hi hk => ?_⟩
  have source := congrArg wordToBits (detailWord_source s.ksd i hi)
  have derived := congrArg wordToBits (detailWord_derived s.ksd i hi)
  refine ⟨fun x hx h => ?operand, fun h => ?chain, fun hi h => ?ctrcur, fun r h => ?rk, fun h => ?trIn,
    fun h => ?trArk, fun h => ?trSb, fun h => ?trSr, fun h => ?trLast, fun h => ?source, fun h => ?rot, fun h => ?sub,
    fun h => ?rcon, fun h => ?t, fun h => ?derived, fun o ho h => ?msgIn, fun o ho h => ?msgOut⟩
  case operand => rw [held h (locOf_operand s.cfg x i hx), lane_readLoc_operand s x hx hk]
  case chain => exact lane_of_eq_blockWord hk (held h (locOf_chain s.cfg i hi))
  case ctrcur => exact lane_of_eq_word hk (held h (locOf_ctrcur s.cfg i hi))
  case rk => exact lane_of_eq_blockWord hk ((held h (locOf_rk s.cfg r i r.isLt hi)).trans (readLoc_rk s r i))
  case trIn => exact lane_of_eq_blockWord hk (held h (locOf_tr s.cfg 0 i (by decide) hi))
  case trArk => exact lane_of_eq_blockWord hk (held h (locOf_tr s.cfg 1 i (by decide) hi))
  case trSb => exact lane_of_eq_blockWord hk (held h (locOf_tr s.cfg 2 i (by decide) hi))
  case trSr => exact lane_of_eq_blockWord hk (held h (locOf_tr s.cfg 3 i (by decide) hi))
  case trLast => exact lane_of_eq_blockWord hk (held h (locOf_tr s.cfg 4 i (by decide) hi))
  case source => exact lane_of_eq_blockWord hk ((held h (locOf_ksd s.cfg i (by omega))).trans source)
  case rot => exact lane_of_eq_word hk (held h (locOf_ksd s.cfg 4 (by decide)))
  case sub => exact lane_of_eq_word hk (held h (locOf_ksd s.cfg 5 (by decide)))
  case rcon => exact lane_of_eq_word hk (held h (locOf_ksd s.cfg 6 (by decide)))
  case t => exact lane_of_eq_word hk (held h (locOf_ksd s.cfg 7 (by decide)))
  case derived =>
    rw [show 0x0420 + 4 * i = 0x0400 + 4 * (8 + i) by omega] at h
    exact lane_of_eq_blockWord hk ((held h (locOf_ksd s.cfg (8 + i) (by omega))).trans derived)
  case msgIn => rw [held h (locOf_msgIn s.cfg o hcfg ho), lane_readLoc_msgIn s o hk]
  case msgOut => rw [held h (locOf_msgOut s.cfg o ho), lane_readLoc_msgOut s o hk]

/-- Settles O17: a read-only location ignores the write, and the map is read off its ranges. -/
theorem reservedAndReadOnlyLocations : Obligations.ReservedAndReadOnlyLocations := by
  unfold Obligations.ReservedAndReadOnlyLocations
  refine ⟨fun s a rest hb ha => ⟨fun hl d strb hp => ?_, fun hl hp => ?_⟩, fun p a hp halign _ => ?_⟩
  · rw [step_idle_write hb hp ha, writeLoc_readOnly _ d strb hl]
  · rw [step_idle_read hb hp ha, hl]
    rfl
  · exact ⟨locOf_eq_reserved_iff hp halign, isResult_locOf_iff halign, locOf_eq_param_iff halign⟩

/-- Settles O21: the word's four lanes go to its four bytes, all of them below MSG_OUT. -/
theorem msgInWritesStoreEnabledBytes : Obligations.MsgInWritesStoreEnabledBytes := by
  unfold Obligations.MsgInWritesStoreEnabledBytes
  intro s a d strb rest o hcfg hb hp hword ho ha
  refine ⟨_, step_idle_write hb hp (by omega), ?_⟩
  rw [ha, locOf_msgIn s.cfg o hcfg ho]
  refine ⟨rfl, fun x => ?_, fun x => ?_⟩
  · have byte : msgInBase + x - (msgInBase + o) = x - o := by omega
    refine (memByte_writeBufferWord s.mem (msgInBase + o) (wordOfBits d) strb s.inGen (msgInBase + x)).trans ?_
    rw [byte]
    by_cases h : o ≤ x ∧ x < o + 4 ∧ strb.getLsbD (x - o) = true
    · obtain ⟨hlo, hhi, hon⟩ := h
      rw [if_pos ⟨by omega, by omega, hon⟩, if_pos ⟨hlo, hhi, hon⟩, wordOfBits_byte d _ (by omega)]
    · rw [if_neg fun ⟨hlo, hhi, hon⟩ => h ⟨by omega, by omega, hon⟩, if_neg h]
      rfl
  · obtain ⟨-, -, hm, -, -, -, -⟩ := hcfg
    refine (memByte_writeBufferWord s.mem (msgInBase + o) (wordOfBits d) strb s.outGen (msgOutBase + x)).trans ?_
    have above : ¬ msgOutBase + x < msgInBase + o + 4 := by
      simp only [msgInBase, msgOutBase]
      omega
    exact if_neg fun ⟨_, hhi, _⟩ => above hhi

end Sys2Proof.Proofs
end

section
/-! PROOF. The command word of 30_encoding.md: a word decodes to a well-formed command exactly when it is that command's
encoding, the legal words, and the refused values of CTRL. -/

namespace Sys2Proof

/-! ### The fields of a word (30_encoding.md R110) -/

/-- A word is its five fields put together. -/
theorem word_eq_fields (w : HWord) : fieldB w ++ fieldA w ++ fieldRsv w ++ fieldR w ++ fieldOp w = w := by
  unfold fieldB fieldA fieldRsv fieldR fieldOp
  rw [BitVec.extractLsb'_append_extractLsb'_eq_extractLsb' (by rfl),
    BitVec.extractLsb'_append_extractLsb'_eq_extractLsb' (by rfl),
    BitVec.extractLsb'_append_extractLsb'_eq_extractLsb' (by rfl),
    BitVec.extractLsb'_append_extractLsb'_eq_extractLsb' (by rfl), BitVec.extractLsb'_eq_self]

/-- The three operand fields of `w` are those of `i` (R112). -/
abbrev OperandFields (w : HWord) (i : Instr) : Prop :=
  fieldR w = operandR i ∧ fieldA w = operandA i ∧ fieldB w = operandB i

/-- A word is the encoding of a command exactly when its fields are the command's and RSV is 0. -/
theorem encode_eq_iff {w : HWord} {i : Instr} :
    encode i = w ↔ fieldRsv w = 0 ∧ fieldOp w = opcode i ∧ OperandFields w i := by
  constructor
  · rintro rfl
    obtain ⟨hop, hr, hrsv, ha, hb⟩ := Laws.EncodedFields.fields (operandB i) (operandA i) (operandR i) (opcode i)
    exact ⟨hrsv, hop, hr, ha, hb⟩
  · rintro ⟨hrsv, hop, hr, ha, hb⟩
    rw [encode, ← hop, ← hr, ← ha, ← hb, ← hrsv, word_eq_fields]

/-! ### The opcode map (30_encoding.md R113) -/

/-- The commands that use neither R, A nor B. -/
abbrev plainCommands : List Instr :=
  [.nop, .clear, .xfer, .expand, .subb, .shrow, .mixcol, .invsubb, .invshrow, .invmixcol, .encb, .decb, .ecbenc,
    .ecbdec, .cbcenc, .cbcenct, .cbcdec, .ctrx, .xordemo, .route, .run]

theorem plainCommands_operands :
    ∀ i ∈ plainCommands, i.wf = true ∧ operandR i = 0 ∧ operandA i = 0 ∧ operandB i = 0 := by decide

theorem decodePlain_eq_ok_iff {w : HWord} {j i : Instr} :
    decodePlain w j = .ok i ↔ (fieldR w = 0 ∧ fieldA w = 0 ∧ fieldB w = 0) ∧ j = i := by
  unfold decodePlain
  split_ifs with hr ha hb
  · exact ⟨nofun, fun ⟨⟨hr', _⟩, _⟩ => absurd hr' hr⟩
  · exact ⟨nofun, fun ⟨⟨_, ha', _⟩, _⟩ => absurd ha' ha⟩
  · exact ⟨nofun, fun ⟨⟨_, _, hb'⟩, _⟩ => absurd hb' hb⟩
  · exact ⟨fun h => ⟨⟨not_not.1 hr, not_not.1 ha, not_not.1 hb⟩, Except.ok.inj h⟩, fun ⟨_, h⟩ => congrArg _ h⟩

theorem decodeRound_eq_ok_iff {w : HWord} {lo hi : Nat} {f : BitVec 4 → Instr} {i : Instr} :
    decodeRound w lo hi f = .ok i ↔
      (lo ≤ (fieldR w).toNat ∧ (fieldR w).toNat ≤ hi) ∧ (fieldA w = 0 ∧ fieldB w = 0) ∧ f (fieldR w) = i := by
  unfold decodeRound
  split_ifs with hr ha hb
  · exact ⟨nofun, fun ⟨⟨hlo, hhi⟩, _⟩ => by omega⟩
  · exact ⟨nofun, fun ⟨_, ⟨ha', _⟩, _⟩ => absurd ha' ha⟩
  · exact ⟨nofun, fun ⟨_, ⟨_, hb'⟩, _⟩ => absurd hb' hb⟩
  · exact ⟨fun h => ⟨by omega, ⟨not_not.1 ha, not_not.1 hb⟩, Except.ok.inj h⟩, fun ⟨_, _, h⟩ => congrArg _ h⟩

theorem decodeXtime_eq_ok_iff {w : HWord} {i : Instr} :
    decodeXtime w = .ok i ↔ (fieldR w = 0 ∧ fieldB w = 0) ∧ .xtime (fieldA w) = i := by
  unfold decodeXtime
  split_ifs with hr hb
  · exact ⟨nofun, fun ⟨⟨hr', _⟩, _⟩ => absurd hr' hr⟩
  · exact ⟨nofun, fun ⟨⟨_, hb'⟩, _⟩ => absurd hb' hb⟩
  · exact ⟨fun h => ⟨⟨not_not.1 hr, not_not.1 hb⟩, Except.ok.inj h⟩, fun ⟨_, h⟩ => congrArg _ h⟩

theorem decodeGmul_eq_ok_iff {w : HWord} {i : Instr} :
    decodeGmul w = .ok i ↔ fieldR w = 0 ∧ .gmul (fieldA w) (fieldB w) = i := by
  unfold decodeGmul
  split_ifs with hr
  · exact ⟨nofun, fun ⟨hr', _⟩ => absurd hr' hr⟩
  · exact ⟨fun h => ⟨not_not.1 hr, Except.ok.inj h⟩, fun ⟨_, h⟩ => congrArg _ h⟩

/-- `OpcodeRow w r n`: `r` is what the opcode `n` can make of the word `w`: what its row of the map gives, or a
rejection. -/
inductive OpcodeRow (w : HWord) : Except Reject Instr → Nat → Prop
  | plain (i : Instr) (h : i ∈ plainCommands) : OpcodeRow w (decodePlain w i) (opcode i).toNat
  | kstep : OpcodeRow w (decodeRound w 1 10 .kstep) 0x11
  | ark : OpcodeRow w (decodeRound w 0 10 .ark) 0x20
  | trace : OpcodeRow w (decodeRound w 0 9 .trace) 0x2A
  | xtime : OpcodeRow w (decodeXtime w) 0x30
  | gmul : OpcodeRow w (decodeGmul w) 0x31
  | reserved (n : Nat) : OpcodeRow w (.error .reservedOpcode) n

theorem opcodeRow_decodeOp (w : HWord) (n : Nat) : OpcodeRow w (decodeOp w n) n := by
  unfold decodeOp
  split
  case h_5 => exact .kstep
  case h_6 => exact .ark
  case h_15 => exact .trace
  case h_16 => exact .xtime
  case h_17 => exact .gmul
  case h_27 => exact .reserved n
  all_goals exact .plain _ (by decide)

/-- A command's own row reads a word with its operands as the command. -/
theorem decodeOp_opcode {w : HWord} {i : Instr} (hwf : i.wf = true) (hf : OperandFields w i) :
    decodeOp w (opcode i).toNat = .ok i := by
  obtain ⟨hr, ha, hb⟩ := hf
  cases i with
  | kstep r => exact decodeRound_eq_ok_iff.2 ⟨hr ▸ of_decide_eq_true hwf, ⟨ha, hb⟩, congrArg _ hr⟩
  | ark r => exact decodeRound_eq_ok_iff.2 ⟨⟨Nat.zero_le _, hr ▸ of_decide_eq_true hwf⟩, ⟨ha, hb⟩, congrArg _ hr⟩
  | trace r => exact decodeRound_eq_ok_iff.2 ⟨⟨Nat.zero_le _, hr ▸ of_decide_eq_true hwf⟩, ⟨ha, hb⟩, congrArg _ hr⟩
  | xtime a => exact decodeXtime_eq_ok_iff.2 ⟨⟨hr, hb⟩, congrArg _ ha⟩
  | gmul a b => exact decodeGmul_eq_ok_iff.2 ⟨hr, congrArg₂ _ ha hb⟩
  | _ => exact decodePlain_eq_ok_iff.2 ⟨⟨hr, ha, hb⟩, rfl⟩

/-- A row gives a command only on words with that command's opcode and operands, the round index in its range. -/
theorem opcode_of_decodeOp {w : HWord} {n : Nat} {i : Instr} (h : decodeOp w n = .ok i) :
    i.wf = true ∧ n = (opcode i).toNat ∧ OperandFields w i := by
  have row := opcodeRow_decodeOp w n
  rw [h] at row
  generalize hrow : Except.ok i = r at row
  cases row with
  | plain j hj =>
    obtain ⟨⟨hr, ha, hb⟩, rfl⟩ := decodePlain_eq_ok_iff.1 hrow.symm
    obtain ⟨hwf, hr', ha', hb'⟩ := plainCommands_operands j hj
    exact ⟨hwf, rfl, hr.trans hr'.symm, ha.trans ha'.symm, hb.trans hb'.symm⟩
  | kstep =>
    obtain ⟨range, ⟨ha, hb⟩, rfl⟩ := decodeRound_eq_ok_iff.1 hrow.symm
    exact ⟨decide_eq_true range, rfl, rfl, ha, hb⟩
  | ark | trace =>
    obtain ⟨⟨-, range⟩, ⟨ha, hb⟩, rfl⟩ := decodeRound_eq_ok_iff.1 hrow.symm
    exact ⟨decide_eq_true range, rfl, rfl, ha, hb⟩
  | xtime =>
    obtain ⟨⟨hr, hb⟩, rfl⟩ := decodeXtime_eq_ok_iff.1 hrow.symm
    exact ⟨rfl, rfl, hr, rfl, hb⟩
  | gmul =>
    obtain ⟨hr, rfl⟩ := decodeGmul_eq_ok_iff.1 hrow.symm
    exact ⟨rfl, rfl, hr, rfl, rfl⟩
  | reserved => cases hrow

/-! ### Decoding (30_encoding.md R122, R124) -/

/-- A word decodes to a command exactly when the command is well-formed and the word has its fields, RSV 0. -/
theorem decode_eq_ok_iff_fields {w : HWord} {i : Instr} :
    decode w = .ok i ↔ i.wf = true ∧ fieldRsv w = 0 ∧ fieldOp w = opcode i ∧ OperandFields w i := by
  by_cases hrsv : fieldRsv w = 0
  · rw [decode, if_neg (not_not_intro hrsv)]
    constructor
    · intro h
      obtain ⟨hwf, hop, hf⟩ := opcode_of_decodeOp h
      exact ⟨hwf, hrsv, BitVec.eq_of_toNat_eq hop, hf⟩
    · rintro ⟨hwf, -, hop, hf⟩
      rw [hop]
      exact decodeOp_opcode hwf hf
  · rw [decode, if_pos hrsv]
    exact ⟨nofun, fun ⟨_, h, _⟩ => absurd h hrsv⟩

/-- A word decodes to a command exactly when the command is well-formed and the word is its encoding. -/
theorem decode_eq_ok_iff {w : HWord} {i : Instr} : decode w = .ok i ↔ i.wf = true ∧ encode i = w := by
  rw [decode_eq_ok_iff_fields, encode_eq_iff]

/-! ### The legal words (30_encoding.md R122) -/

/-- The opcodes of the map of R113. -/
abbrev mapOpcodes : List (BitVec 8) :=
  [0x00, 0x01, 0x02, 0x10, 0x11, 0x20, 0x21, 0x22, 0x23, 0x24, 0x25, 0x26, 0x28, 0x29, 0x2A, 0x30, 0x31, 0x40, 0x41,
    0x42, 0x43, 0x44, 0x45, 0x50, 0x60, 0x61]

/-- `legal(word)` of R122, in the fields of R110. -/
abbrev LegalWord (w : HWord) : Prop :=
  fieldOp w ∈ mapOpcodes ∧ fieldRsv w = 0 ∧
    (fieldOp w ∉ [(0x20 : BitVec 8), 0x11, 0x2A] → fieldR w = 0) ∧
    (fieldOp w = 0x20 → (fieldR w).toNat ≤ 10) ∧
    (fieldOp w = 0x11 → 1 ≤ (fieldR w).toNat ∧ (fieldR w).toNat ≤ 10) ∧
    (fieldOp w = 0x2A → (fieldR w).toNat ≤ 9) ∧
    (fieldOp w ∉ [(0x30 : BitVec 8), 0x31] → fieldA w = 0) ∧
    (fieldOp w ≠ 0x31 → fieldB w = 0)

theorem opcode_mem_mapOpcodes (i : Instr) : opcode i ∈ mapOpcodes := by
  cases i <;> simp [opcode]

/-- Every opcode of the map is a plain command's or one of the five with an operand. -/
theorem mapOpcodes_cases : ∀ op ∈ mapOpcodes,
    (∃ i ∈ plainCommands, op = opcode i) ∨ op = 0x11 ∨ op = 0x20 ∨ op = 0x2A ∨ op = 0x30 ∨ op = 0x31 := by
  decide

theorem plainCommands_opcode : ∀ i ∈ plainCommands,
    opcode i ∉ [(0x20 : BitVec 8), 0x11, 0x2A] ∧ opcode i ∉ [(0x30 : BitVec 8), 0x31] ∧ opcode i ≠ 0x31 := by
  decide

theorem legalWord_of_decode {w : HWord} {i : Instr} (h : decode w = .ok i) : LegalWord w := by
  obtain ⟨hwf, hrsv, hop, hr, ha, hb⟩ := decode_eq_ok_iff_fields.1 h
  unfold LegalWord
  rw [hop, hr, ha, hb]
  refine ⟨opcode_mem_mapOpcodes i, hrsv, ?_⟩
  cases i with
  | kstep | ark | trace => simpa [opcode, operandR, operandA, operandB, Instr.wf] using hwf
  | _ => simp [opcode, operandR, operandA, operandB]

theorem decode_of_legalWord {w : HWord} (h : LegalWord w) : ∃ i, decode w = .ok i := by
  obtain ⟨hmap, hrsv, hr, hark, hkstep, htrace, ha, hb⟩ := h
  simp only [decode_eq_ok_iff_fields]
  rcases mapOpcodes_cases _ hmap with ⟨i, hi, hop⟩ | hop | hop | hop | hop | hop
  · obtain ⟨hround, hxtime, hgmul⟩ := plainCommands_opcode i hi
    obtain ⟨hwf, hr', ha', hb'⟩ := plainCommands_operands i hi
    rw [hop] at hr ha hb
    exact ⟨i, hwf, hrsv, hop, (hr hround).trans hr'.symm, (ha hxtime).trans ha'.symm, (hb hgmul).trans hb'.symm⟩
  · exact ⟨.kstep (fieldR w), decide_eq_true (hkstep hop), hrsv, hop, rfl, ha (by simp [hop]), hb (by simp [hop])⟩
  · exact ⟨.ark (fieldR w), decide_eq_true (hark hop), hrsv, hop, rfl, ha (by simp [hop]), hb (by simp [hop])⟩
  · exact ⟨.trace (fieldR w), decide_eq_true (htrace hop), hrsv, hop, rfl, ha (by simp [hop]), hb (by simp [hop])⟩
  · exact ⟨.xtime (fieldA w), rfl, hrsv, hop, hr (by simp [hop]), rfl, hb (by simp [hop])⟩
  · exact ⟨.gmul (fieldA w) (fieldB w), rfl, hrsv, hop, hr (by simp [hop]), rfl, rfl⟩

end Sys2Proof

namespace Sys2Proof.Machine

open Sys2Proof.Safety

/-- A command that raises an error completes as `failed` says (60_exceptions.md R324, R325). -/
theorem finish_error_eq_failed (s : State) (e : CmdError) : finish s (.error e) = .next (failed s e) := rfl

/-- The completion of a word that does not decode (30_encoding.md R124, 60_exceptions.md R322). -/
theorem complete_illegal {s : State} (h : ¬ ∃ i, decode s.cmd = .ok i) :
    complete s = .next (failed s .illegalCommand) := by
  unfold complete
  cases hd : decode s.cmd with
  | ok i => exact absurd ⟨i, hd⟩ h
  | error r => exact finish_error_eq_failed s .illegalCommand

/-! ### The refused values of CTRL (30_encoding.md R121) -/

theorem ctrlCipher_eq_none_iff (s : State) : ctrlCipher s = none ↔ 2 ≤ (s.ctrl.extractLsb' 3 2).toNat := by
  unfold ctrlCipher
  generalize (s.ctrl.extractLsb' 3 2).toNat = cipher
  match cipher with
  | 0 | 1 => simp
  | n + 2 => simp

theorem ctrlMode_eq_none_iff (s : State) : ctrlMode s = none ↔ (s.ctrl.extractLsb' 0 2).toNat = 3 := by
  have bound := (s.ctrl.extractLsb' 0 2).isLt
  unfold ctrlMode
  generalize (s.ctrl.extractLsb' 0 2).toNat = mode at bound ⊢
  match mode with
  | 0 | 1 | 2 | 3 => simp
  | n + 4 => omega

/-- A mode command with a refused CIPHER. -/
theorem exec_mode_refused {s : State} {i : Instr} (hc : ctrlCipher s = none) (hi : i ∈ modeCommands) :
    exec i s = .next (failed s .illegalCommand) := by
  simp only [modeCommands, List.mem_cons, List.not_mem_nil, or_false] at hi
  rcases hi with rfl | rfl | rfl | rfl | rfl | rfl
  · simp only [exec, execEcbenc, ecbEncBody, hc, finish_error_eq_failed]
  · simp only [exec, execEcbdec, ecbDecBody, hc, finish_error_eq_failed]
  · simp only [exec, execCbcenc, cbcEncBody, hc, finish_error_eq_failed]
  · simp only [exec, execCbcenct, cbcEncTruncBody, hc, finish_error_eq_failed]
  · simp only [exec, execCbcdec, cbcDecBody, hc, finish_error_eq_failed]
  · simp only [exec, execCtrx, ctrBody, hc, finish_error_eq_failed]

theorem execRoute_refused {s : State} (hm : ctrlMode s = none) :
    execRoute s = .next (failed s .illegalCommand) := by
  simp only [execRoute, hm, finish_error_eq_failed]

theorem execRun_refused {s : State} (h : ctrlMode s = none ∨ ctrlCipher s = none) :
    execRun s = .next (failed s .illegalCommand) := by
  unfold execRun
  split
  next hm hc => simp [hm, hc] at h
  next => exact finish_error_eq_failed s .illegalCommand

end Sys2Proof.Machine

namespace Sys2Proof.Proofs

open Sys2Proof.Machine Sys2Proof.Safety

/-! ### The obligations on the encoding -/

/-- Settles O1: a word decodes to a command exactly when it is the command's encoding. -/
theorem decodeOfEncode : Obligations.DecodeOfEncode := by
  unfold Obligations.DecodeOfEncode
  exact fun i hwf => decode_eq_ok_iff.2 ⟨hwf, rfl⟩

/-- Settles O2: the same equivalence, from the word to the command. -/
theorem encodeOfDecode : Obligations.EncodeOfDecode := by
  unfold Obligations.EncodeOfDecode
  exact fun w i h => decode_eq_ok_iff.1 h

/-- Settles O3: the legal words are those with some command's fields, and any other completes as illegal. -/
theorem legalWords : Obligations.LegalWords := by
  unfold Obligations.LegalWords
  exact ⟨fun w => ⟨fun ⟨_, h⟩ => legalWord_of_decode h, decode_of_legalWord⟩,
    fun s hc h => (step_complete hc).trans (complete_illegal h)⟩

/-- Settles O27: a refused value is no CIPHER or no MODE, which each of these commands checks first. -/
theorem refusedControlValues : Obligations.RefusedControlValues := by
  unfold Obligations.RefusedControlValues
  refine fun s => ⟨fun hcipher i hi => ?_, fun hmode i hi => ?_⟩
  · have hc := (ctrlCipher_eq_none_iff s).2 hcipher
    rcases List.mem_append.1 (show i ∈ modeCommands ++ [.run] from hi) with hi | hi
    · exact exec_mode_refused hc hi
    · obtain rfl := List.mem_singleton.1 hi
      exact execRun_refused (.inr hc)
  · have hm := (ctrlMode_eq_none_iff s).2 hmode
    rcases List.mem_pair.1 hi with rfl | rfl
    · exact execRoute_refused hm
    · exact execRun_refused (.inl hm)

/-- Settles O4: fifteen fixed words, each decoded by evaluation. -/
theorem sampleWords : Obligations.SampleWords := by
  unfold Obligations.SampleWords
  decide

end Sys2Proof.Proofs
end

section
/-! PROOF. NOP, CLEAR and XFER (40_control.md). -/

namespace Sys2Proof.Machine

open Sys2Proof.Safety

/-- A command that checks nothing first completes with its results (60_exceptions.md R322). -/
theorem finish_ok_eq_statusDone (s t : State) :
    finish s (.ok t) = .next { t with status := statusDone t.status } := rfl

/-! ### CLEAR (40_control.md R141) -/

/-- A state whose masks are 0 has no valid byte in any operand register. -/
theorem operandMask_of_masks_zero {s : State} (hkey : s.keyM = 0) (hstate : s.stateM = 0) (hiv : s.ivM = 0)
    (hnonce : s.nonceM = 0) (hctr : s.ctr0M = 0) (x : OpReg) (k : Nat) : operandMask s x k = false := by
  cases x <;> simp only [operandMask, *] <;> exact BitVec.getLsbD_zero

theorem readLoc_valid0_of_masks_zero {s : State} (hkey : s.keyM = 0) (hstate : s.stateM = 0) :
    readLoc s .valid0 = 0 := by
  simp only [readLoc, hkey, hstate]
  rfl

theorem readLoc_valid1_of_masks_zero {s : State} (hiv : s.ivM = 0) (hnonce : s.nonceM = 0) (hctr : s.ctr0M = 0) :
    readLoc s .valid1 = 0 := by
  simp only [readLoc, hiv, hnonce, hctr]
  rfl

/-! ### XFER (40_control.md R142) -/

/-- MSG_IN after the first `n` bytes of MSG_OUT are stored in it. -/
theorem inByte_writeIn_readOut (s : State) (n a : Nat) :
    inByte (writeIn s (readOut s n)) a = if a < n then outByte s a else inByte s a := by
  rw [inByte_writeIn]
  simp only [readOut_length, readOut_getElem, dite_eq_ite]

theorem execXfer_fits {s : State} (h : s.outLen.toNat ≤ s.cfg.msgbufBytes) :
    execXfer s = .next (completeOk { writeIn s (readOut s s.outLen.toNat) with len := s.outLen }) := by
  rw [execXfer, failIf_neg _ (by omega), guarded_none, guarded_nil, finish_ok]

theorem execXfer_tooLong {s : State} (h : s.cfg.msgbufBytes < s.outLen.toNat) :
    execXfer s = .next (failed s .invalidBlockLength) := by
  rw [execXfer, failIf_pos _ h, guarded_some, finish_error_eq_failed]

end Sys2Proof.Machine

namespace Sys2Proof.Proofs

open Sys2Proof.Machine Sys2Proof.Safety

/-! ### The obligations on the control commands -/

/-- Settles O31: the check decides between the copy, which lies within the 16 KiB of MSG_IN, and the refusal. -/
theorem xferCopiesTheOutput : Obligations.XferCopiesTheOutput := by
  unfold Obligations.XferCopiesTheOutput
  intro s ⟨_, _, hbytes, _⟩
  refine ⟨fun hfits => ?_, execXfer_tooLong⟩
  have hroom : (readOut s s.outLen.toNat).length ≤ 0x4000 := by rw [readOut_length]; omega
  exact ⟨_, execXfer_fits hfits, rfl, inByte_writeIn_readOut s s.outLen.toNat,
    fun a => outByte_writeIn s _ a hroom⟩

/-- Settles O30: CLEAR's result has the five masks 0, and the validity words and bits are read from those. -/
theorem clearInvalidatesOperands : Obligations.ClearInvalidatesOperands := by
  unfold Obligations.ClearInvalidatesOperands
  intro s
  exact ⟨_, finish_ok_eq_statusDone s _, operandMask_of_masks_zero rfl rfl rfl rfl rfl,
    readLoc_valid0_of_masks_zero rfl rfl, readLoc_valid1_of_masks_zero rfl rfl rfl, rfl⟩

/-- Settles O29: NOP completes the state it is given. -/
theorem nopOnlyCompletes : Obligations.NopOnlyCompletes := by
  unfold Obligations.NopOnlyCompletes
  exact fun s => finish_ok_eq_statusDone s s

end Sys2Proof.Proofs
end

section
/-! PROOF. The demonstration XOR cipher (41_xor_demo.md): the bit string a block holds, first bit most significant. -/

namespace Sys2Proof.Machine

open Sys2Proof.Safety

/-! ### The bit string of a block (41_xor_demo.md R151) -/

theorem wordByte_getMsbD (w : Word) {i : Nat} (hi : i < 32) :
    (wordByte w (i / 8)).getMsbD (i % 8) = (wordToBits w).getMsbD i := by
  have position : 32 - (24 - 8 * (i / 8) + 8 - i % 8) = i := by omega
  have inside : i % 8 < 8 ∧ 24 - 8 * (i / 8) + 8 - i % 8 ≤ 32 := by omega
  rw [← lane_wordToBits w _ (by omega), lane, BitVec.getMsbD_extractLsb', position, decide_eq_true inside.1,
    decide_eq_true inside.2, Bool.true_and, Bool.true_and]

theorem blockWord_getMsbD (x : Block) (c : Nat) {j : Nat} (hc : c < 4) (hj : j < 32) :
    (wordToBits (blockWord x c)).getMsbD j = (blockToBits x).getMsbD (32 * c + j) := by
  simp only [blockToBits, BitVec.getMsbD_append]
  interval_cases c
  · rw [if_neg (by omega), if_neg (by omega), if_neg (by omega), Nat.zero_add]; rfl
  · rw [if_neg (by omega), if_neg (by omega), if_pos (by omega), Nat.add_sub_cancel_left]; rfl
  · rw [if_neg (by omega), if_pos (by omega), Nat.add_sub_cancel_left]; rfl
  · rw [if_pos (by omega), Nat.add_sub_cancel_left]; rfl

/-- Bit `i` of a block's string is bit `7 - i % 8` of its byte `i / 8`. -/
theorem blockByte_getLsbD (x : Block) {i : Nat} (hi : i < 128) :
    (blockByte x (i / 8)).getLsbD (7 - i % 8) = (blockToBits x).getMsbD i := by
  have byte : i / 8 % 4 = i % 32 / 8 := by omega
  have bit : i % 8 = i % 32 % 8 := by omega
  have inside : i % 32 % 8 < 8 := Nat.mod_lt _ (by omega)
  calc (blockByte x (i / 8)).getLsbD (7 - i % 8)
      = (wordByte (blockWord x (i / 8 / 4)) (i % 32 / 8)).getMsbD (i % 32 % 8) := by
        rw [blockByte, byte, bit, BitVec.getMsbD_eq_getLsbD, decide_eq_true inside, Bool.true_and]
    _ = (wordToBits (blockWord x (i / 8 / 4))).getMsbD (i % 32) := wordByte_getMsbD _ (by omega)
    _ = (blockToBits x).getMsbD (32 * (i / 8 / 4) + i % 32) := blockWord_getMsbD x _ (by omega) (by omega)
    _ = (blockToBits x).getMsbD i := by rw [show 32 * (i / 8 / 4) + i % 32 = i by omega]

theorem blockToBits_blockOfBits (v : BitVec 128) : blockToBits (blockOfBits v) = v := by
  simp only [blockToBits, blockOfBits, wordToBits_wordOfBits]
  rw [BitVec.extractLsb'_append_extractLsb'_eq_extractLsb' (show 96 = 64 + 32 from rfl),
    BitVec.extractLsb'_append_extractLsb'_eq_extractLsb' (show 64 = 32 + 32 from rfl),
    BitVec.extractLsb'_append_extractLsb'_eq_extractLsb' (show 32 = 0 + 32 from rfl), BitVec.extractLsb'_eq_self]

/-! ### The command (41_xor_demo.md R150) -/

/-- The mask of `xorPrefix` keeps the first `p` bits. -/
theorem prefixMask_getMsbD {p i : Nat} (hp : p ≤ 128) :
    (BitVec.allOnes 128 <<< (128 - p)).getMsbD i = decide (i < p) := by
  rw [BitVec.getMsbD_shiftLeft, BitVec.getMsbD_allOnes, decide_eq_decide]
  omega

theorem xorPrefix_getMsbD (x k : Block) {p i : Nat} (hp : p ≤ 128) :
    (blockToBits (xorPrefix x k p)).getMsbD i =
      (decide (i < p) && ((blockToBits x).getMsbD i ^^ (blockToBits k).getMsbD i)) := by
  rw [xorPrefix, blockToBits_blockOfBits, BitVec.getMsbD_and, BitVec.getMsbD_xor, prefixMask_getMsbD hp,
    Bool.and_comm]

theorem xorPrefix_bit (x k : Block) {p i : Nat} (hp : p ≤ 128) (hi : i < 128) :
    (blockByte (xorPrefix x k p) (i / 8)).getLsbD (7 - i % 8) =
      (decide (i < p) &&
        ((blockByte x (i / 8)).getLsbD (7 - i % 8) ^^ (blockByte k (i / 8)).getLsbD (7 - i % 8))) := by
  simp only [blockByte_getLsbD _ hi, xorPrefix_getMsbD x k hp]

/-- With both operands written in full, only the two length checks are left. -/
theorem execXordemo_full {s : State} (hkey : operandFull s .key) (hstate : operandFull s .state) :
    execXordemo s = finish s (guarded
      [failIf (128 < ptBits s ∨ 128 < keyBits s) .invalidBlockLength,
        failIf (ptBits s ≠ keyBits s) .lengthMismatch]
      { s with state := xorPrefix s.state s.key (ptBits s) }) := by
  rw [execXordemo, need_full hkey, need_full hstate, guarded_none, guarded_none]

theorem execXordemo_equalLengths {s : State} (hkey : operandFull s .key) (hstate : operandFull s .state)
    (hp : ptBits s ≤ 128) (heq : keyBits s = ptBits s) :
    execXordemo s = .next { s with
      state := xorPrefix s.state s.key (ptBits s), status := statusDone s.status } := by
  rw [execXordemo_full hkey hstate, failIf_neg _ (by omega), failIf_neg _ (by omega), guarded_none, guarded_none,
    guarded_nil, finish_ok_eq_statusDone]

theorem execXordemo_tooLong {s : State} (hkey : operandFull s .key) (hstate : operandFull s .state)
    (h : 128 < ptBits s ∨ 128 < keyBits s) : execXordemo s = .next (failed s .invalidBlockLength) := by
  rw [execXordemo_full hkey hstate, failIf_pos _ h, guarded_some, finish_error_eq_failed]

theorem execXordemo_mismatch {s : State} (hkey : operandFull s .key) (hstate : operandFull s .state)
    (hp : ptBits s ≤ 128) (hk : keyBits s ≤ 128) (hne : ptBits s ≠ keyBits s) :
    execXordemo s = .next (failed s .lengthMismatch) := by
  rw [execXordemo_full hkey hstate, failIf_neg _ (by omega), failIf_pos _ hne, guarded_none, guarded_some,
    finish_error_eq_failed]

end Sys2Proof.Machine

namespace Sys2Proof.Proofs

open Sys2Proof.Machine Sys2Proof.Safety

/-! ### The obligation on the demonstration cipher -/

/-- Settles O54: the two length checks decide between the XOR, read bit by bit, and the two errors. -/
theorem xordemoXorsBitStrings : Obligations.XordemoXorsBitStrings := by
  unfold Obligations.XordemoXorsBitStrings
  intro s hkey hstate
  refine ⟨fun hp heq => ?_, execXordemo_tooLong hkey hstate, execXordemo_mismatch hkey hstate⟩
  exact ⟨_, execXordemo_equalLengths hkey hstate hp heq, rfl, fun i hi => xorPrefix_bit s.state s.key hp hi⟩

end Sys2Proof.Proofs
end

section
/-! PROOF. The GF(2^8) byte multiplier (42_gf_multiplier.md). The laws of the product follow from one property of the
shift-and-add loop: a map that is additive and commutes with doubling moves into the first factor. -/

namespace Sys2Proof.Machine

/-! ### Doubling (42_gf_multiplier.md R160) -/

/-- `xtime` is the polynomial's shift on 9 bits reduced by 0x11B, whose bit 8 the byte does not show. -/
theorem xtime_eq_reduce (a : Byte) :
    xtime a =
      (((a.zeroExtend 9) <<< 1) ^^^ (if a.getLsbD 7 then (0x11B : BitVec 9) else 0)).extractLsb' 0 8 := by
  have shift : ((a.zeroExtend 9) <<< 1).extractLsb' 0 8 = a <<< 1 := by
    rw [← BitVec.setWidth_eq_extractLsb' (by decide), BitVec.setWidth_shiftLeft_of_le (by decide),
      BitVec.setWidth_setWidth_of_le _ (by decide), BitVec.setWidth_eq]
  rw [xtime, BitVec.extractLsb'_xor, shift]
  split <;> rfl

theorem xtime_xor (a b : Byte) : xtime (a ^^^ b) = xtime a ^^^ xtime b := by
  have reduction : (if (a ^^^ b).getLsbD 7 then (0x1B : Byte) else 0) =
      (if a.getLsbD 7 then 0x1B else 0) ^^^ (if b.getLsbD 7 then 0x1B else 0) := by
    rw [BitVec.getLsbD_xor]
    cases a.getLsbD 7 <;> cases b.getLsbD 7 <;> rfl
  rw [xtime, xtime, xtime, reduction, BitVec.shiftLeft_xor_distrib]
  ac_rfl

/-! ### The shift-and-add loop (42_gf_multiplier.md R161) -/

/-- The loop adds `a` doubled `i` times for each set bit `i` of `b` below `n` to the partial product. -/
theorem gmulLoop_eq_foldl (n : Nat) (p a b : Byte) :
    gmulLoop n p a b =
      (List.range n).foldl (fun p i => p ^^^ (if b.getLsbD i then xtime^[i] a else 0)) p := by
  induction n generalizing p a b with
  | zero => rfl
  | succ n ih =>
    have first : (if b.getLsbD 0 then p ^^^ a else p) = p ^^^ (if b.getLsbD 0 then a else 0) := by
      split
      · rfl
      · exact BitVec.xor_zero.symm
    have rest (i : Nat) : (b >>> 1).getLsbD i = b.getLsbD (i + 1) := by
      rw [BitVec.getLsbD_ushiftRight, Nat.add_comm]
    simp only [gmulLoop, ih, first, rest, List.range_succ_eq_map, List.foldl_cons, List.foldl_map,
      Function.iterate_zero, Function.iterate_succ, Function.comp_apply, id_eq, Nat.succ_eq_add_one]

/-- The loop is additive in the partial product and the first factor together. -/
theorem gmulLoop_xor (n : Nat) (p q a a' b : Byte) :
    gmulLoop n (p ^^^ q) (a ^^^ a') b = gmulLoop n p a b ^^^ gmulLoop n q a' b := by
  induction n generalizing p q a a' b with
  | zero => rfl
  | succ n ih =>
    have swap : p ^^^ q ^^^ (a ^^^ a') = p ^^^ a ^^^ (q ^^^ a') := by ac_rfl
    simp only [gmulLoop, xtime_xor, swap]
    split <;> exact ih ..

/-! ### Maps linear over the polynomials -/

/-- A map of bytes that respects sums and products by the polynomial `x`. -/
structure PolyLinear (f : Byte → Byte) : Prop where
  map_xor (a b : Byte) : f (a ^^^ b) = f a ^^^ f b
  map_xtime (a : Byte) : f (xtime a) = xtime (f a)

theorem xtime_polyLinear : PolyLinear xtime := ⟨xtime_xor, fun _ => rfl⟩

theorem PolyLinear.map_zero {f : Byte → Byte} (hf : PolyLinear f) : f 0 = 0 := by
  have h := hf.map_xor 0 0
  rwa [BitVec.xor_self, BitVec.xor_self] at h

theorem PolyLinear.map_gmulLoop {f : Byte → Byte} (hf : PolyLinear f) (n : Nat) (p a b : Byte) :
    f (gmulLoop n p a b) = gmulLoop n (f p) (f a) b := by
  induction n generalizing p a b with
  | zero => rfl
  | succ n ih => simp only [gmulLoop, ih, hf.map_xtime, apply_ite f, hf.map_xor]

theorem PolyLinear.map_gmul {f : Byte → Byte} (hf : PolyLinear f) (a b : Byte) : f (gmul a b) = gmul (f a) b := by
  rw [gmul, hf.map_gmulLoop, hf.map_zero, gmul]

theorem gmul_polyLinear (c : Byte) : PolyLinear (gmul · c) where
  map_xor a b := gmulLoop_xor 8 0 0 a b c
  map_xtime a := (xtime_polyLinear.map_gmul a c).symm

/-! ### The ring laws (42_gf_multiplier.md R162) -/

theorem zero_gmul (a : Byte) : gmul 0 a = 0 := (gmul_polyLinear a).map_zero

/-- A byte is the sum of the powers of `x` at its set bits. -/
theorem one_gmul : ∀ a : Byte, gmul 1 a = a := by decide

theorem gmul_right_comm (a b c : Byte) : gmul (gmul a b) c = gmul (gmul a c) b :=
  (gmul_polyLinear c).map_gmul a b

theorem gmul_comm (a b : Byte) : gmul a b = gmul b a := by
  simpa only [one_gmul] using gmul_right_comm 1 a b

theorem gmul_assoc (a b c : Byte) : gmul (gmul a b) c = gmul a (gmul b c) := by
  rw [gmul_comm a b, gmul_right_comm b a c, gmul_comm a]

theorem xor_gmul (a b c : Byte) : gmul (a ^^^ b) c = gmul a c ^^^ gmul b c := (gmul_polyLinear c).map_xor a b

theorem gmul_xor (a b c : Byte) : gmul a (b ^^^ c) = gmul a b ^^^ gmul a c := by
  simpa only [gmul_comm a] using xor_gmul b c a

theorem gmul_gmul_gmul_comm (a b c d : Byte) : gmul (gmul a b) (gmul c d) = gmul (gmul a c) (gmul b d) := by
  rw [← gmul_assoc, gmul_right_comm a b c, gmul_assoc]

/-! ### Inverses (42_gf_multiplier.md R162)

Squaring respects sums and products, and eight squarings fix the polynomial `x`, so they fix every byte:
`a ^ 256 = a`. Then `a ^ 255` is idempotent, and 0x11B being irreducible shows in 0 and 1 being the only idempotents. -/

/-- The Frobenius map of the field. -/
def square (a : Byte) : Byte := gmul a a

theorem square_gmul : Function.Semiconj₂ square gmul gmul := fun a b => gmul_gmul_gmul_comm a b a b

theorem square_xor : Function.Semiconj₂ square (· ^^^ ·) (· ^^^ ·) := fun a b =>
  calc square (a ^^^ b)
      = gmul a a ^^^ gmul b a ^^^ (gmul a b ^^^ gmul b b) := by
        rw [square, gmul_xor, xor_gmul, xor_gmul]
    _ = square a ^^^ square b := by
        rw [gmul_comm b a, BitVec.xor_assoc, ← BitVec.xor_assoc (gmul a b), BitVec.xor_self, BitVec.zero_xor]; rfl

theorem gmul_two (a : Byte) : gmul 2 a = xtime a := by
  rw [show (2 : Byte) = xtime 1 from rfl, ← xtime_polyLinear.map_gmul, one_gmul]

theorem square_iterate_eight_two : square^[8] 2 = 2 := by
  have first : square^[4] 2 = 0x5E := by rfl
  have last : square^[4] 0x5E = 2 := by rfl
  rw [Function.iterate_add_apply square 4 4, first, last]

theorem square_iterate_eight_polyLinear : PolyLinear square^[8] where
  map_xor := square_xor.iterate 8
  map_xtime a := by
    rw [← gmul_two, (square_gmul.iterate 8).eq, square_iterate_eight_two, gmul_two]

/-- Fermat's theorem in the field: `a ^ 256 = a`. -/
theorem square_iterate_eight (a : Byte) : square^[8] a = a := by
  have fixes_one : square^[8] 1 = 1 := Function.iterate_fixed rfl 8
  calc square^[8] a = gmul (square^[8] 1) a := by rw [← square_iterate_eight_polyLinear.map_gmul, one_gmul]
    _ = a := by rw [fixes_one, one_gmul]

theorem square_dvd_square_iterate (n : Nat) (a : Byte) : ∃ c, square^[n + 1] a = gmul (square a) c := by
  induction n with
  | zero => exact ⟨1, by rw [gmul_comm, one_gmul]; rfl⟩
  | succ n ih =>
    obtain ⟨c, hc⟩ := ih
    exact ⟨gmul (square a) (square c), by
      rw [Function.iterate_succ_apply', hc, square_gmul.eq, ← gmul_assoc]; rfl⟩

/-- The two idempotents of the ring, over all 256 bytes. -/
theorem eq_zero_or_one_of_square : ∀ e : Byte, square e = e → e = 0 ∨ e = 1 := by decide

theorem exists_gmul_eq_one {a : Byte} (ha : a ≠ 0) : ∃ d, gmul a d = 1 := by
  obtain ⟨d, hd⟩ := square_dvd_square_iterate 7 a
  have absorbs : gmul a (gmul a d) = a := by rw [← gmul_assoc]; exact hd.symm.trans (square_iterate_eight a)
  have idempotent : square (gmul a d) = gmul a d := by
    rw [square, ← gmul_assoc, gmul_comm (gmul a d) a, absorbs]
  refine ⟨d, (eq_zero_or_one_of_square _ idempotent).resolve_left fun h => ha ?_⟩
  rw [← absorbs, h, gmul_comm, zero_gmul]

theorem eq_of_gmul_eq_one {a d d' : Byte} (h : gmul a d = 1) (h' : gmul a d' = 1) : d' = d := by
  calc d' = gmul (gmul a d) d' := by rw [h, one_gmul]
    _ = gmul (gmul a d') d := gmul_right_comm a d d'
    _ = d := by rw [h', one_gmul]

end Sys2Proof.Machine

namespace Sys2Proof.Proofs

open Sys2Proof.Machine Sys2Proof.Safety

/-! ### The obligations on the byte multiplier -/

/-- Settles O34: the ring laws follow from the loop's linearity, and the inverse from Fermat's theorem. -/
theorem gmulFieldLaws : Obligations.GmulFieldLaws := by
  unfold Obligations.GmulFieldLaws
  refine fun a b c => ⟨BitVec.xor_self, gmul_comm a b, gmul_assoc a b c, gmul_xor a b c, zero_gmul a, one_gmul a,
    fun ha => ?_⟩
  obtain ⟨d, hd⟩ := exists_gmul_eq_one ha
  exact ⟨d, hd, fun _ => eq_of_gmul_eq_one hd⟩

/-- Settles O32: XTIME completes with `xtime`, which is the reduced shift. -/
theorem xtimeDoubles : Obligations.XtimeDoubles := by
  unfold Obligations.XtimeDoubles
  intro a s
  rw [← xtime_eq_reduce]
  exact finish_ok_eq_statusDone s _

/-- Settles O33: GMUL completes with the loop over all eight bits. -/
theorem gmulMultiplies : Obligations.GmulMultiplies := by
  unfold Obligations.GmulMultiplies
  intro a b s
  rw [← gmulLoop_eq_foldl]
  exact finish_ok_eq_statusDone s _

end Sys2Proof.Proofs
end

section
/-! PROOF. The key schedule (43_key_schedule.md): EXPAND and KSTEP write one table, whose entries are the round keys. -/

namespace Sys2Proof.Machine

open Sys2Proof.Safety

/-! ### The round constants (43_key_schedule.md R180) -/

theorem doublings_eq_iterate (n : Nat) : doublings n = xtime^[n] 0x01 := by
  induction n with
  | zero => rfl
  | succ n ih => rw [doublings, ih, Function.iterate_succ_apply']

/-- The round constants that 43_key_schedule.md R180 lists. -/
theorem rcon_listed : ∀ r : Fin 10,
    rcon (r.val + 1) =
      ⟨[(0x01 : Byte), 0x02, 0x04, 0x08, 0x10, 0x20, 0x40, 0x80, 0x1B, 0x36][r.val], 0, 0, 0⟩ := by
  decide

/-! ### The round keys (43_key_schedule.md R181) -/

theorem Word.xor_assoc (a b c : Word) : (a.xor b).xor c = a.xor (b.xor c) := by
  simp only [Word.xor, BitVec.xor_assoc]

/-- Entry `r` of the table that EXPAND writes is round key `r`. -/
theorem expandKey_getElem (k0 : Block) (r : Nat) (h : r < 11) : (expandKey k0)[r] = roundKey k0 r := by
  match r, h with
  | 0, _ | 1, _ | 2, _ | 3, _ | 4, _ | 5, _ | 6, _ | 7, _ | 8, _ | 9, _ | 10, _ => rfl

/-- One step of the schedule on the table. -/
theorem expandKey_succ (k0 : Block) (r : Nat) (h : r + 1 < 11) :
    (expandKey k0)[r + 1] = kstep (expandKey k0)[r] (r + 1) := by
  rw [expandKey_getElem, expandKey_getElem, roundKey]

/-- The derivation that KSTEP shows ends in the table's entry `r`. -/
theorem kstepDetail_derived (k0 : Block) (r : Nat) (h1 : 1 ≤ r) (h2 : r ≤ 10) :
    (kstepDetail (expandKey k0)[r - 1] r).derived = (expandKey k0)[r] := by
  obtain ⟨n, rfl⟩ := Nat.exists_eq_add_of_le' h1
  exact (expandKey_succ k0 n (by omega)).symm

/-- The word equation of the first column, with the round constant added last. -/
theorem kstep_c0 (prev : Block) (r : Nat) :
    (kstep prev r).c0 = (prev.c0.xor (subWord (rotWord prev.c3))).xor (rcon r) :=
  (Word.xor_assoc _ _ _).symm

theorem kstep_c1 (prev : Block) (r : Nat) : (kstep prev r).c1 = prev.c1.xor (kstep prev r).c0 := rfl

theorem kstep_c2 (prev : Block) (r : Nat) : (kstep prev r).c2 = prev.c2.xor (kstep prev r).c1 := rfl

theorem kstep_c3 (prev : Block) (r : Nat) : (kstep prev r).c3 = prev.c3.xor (kstep prev r).c2 := rfl

/-! ### EXPAND and KSTEP (43_key_schedule.md R183, R184) -/

theorem execExpand_full {s : State} (hkey : operandFull s .key) :
    execExpand s = .next { s with rk := expandKey s.key, status := statusDone s.status } := by
  rw [execExpand, need_full hkey, guarded_none, guarded_nil, finish_ok_eq_statusDone]
  rfl

/-- KSTEP of a round in range takes entry `r - 1` of the table one step on. -/
theorem execKstep_full {r : BitVec 4} {s : State} (hkey : operandFull s .key) (h1 : 1 ≤ r.toNat)
    (h2 : r.toNat ≤ 10) :
    execKstep r s = .next { s with
      rk := expandKey s.key
      ksd := kstepDetail (expandKey s.key)[r.toNat - 1] r.toNat
      status := statusDone s.status } := by
  rw [execKstep, failIf_neg _ (by omega), need_full hkey, guarded_none, guarded_none, guarded_nil,
    finish_ok_eq_statusDone, expandKey_getElem]
  rfl

theorem execKstep_outOfRange {r : BitVec 4} {s : State} (h : r.toNat = 0 ∨ 10 < r.toNat) :
    execKstep r s = .next (failed s .illegalCommand) := by
  rw [execKstep, failIf_pos _ (by omega), guarded_some, finish_error_eq_failed]

end Sys2Proof.Machine

namespace Sys2Proof.Proofs

open Sys2Proof.Machine Sys2Proof.Safety

/-! ### The obligations on the key schedule -/

/-- Settles O35: each entry of the table is one schedule step from the entry before it. -/
theorem expandDerivesTheSchedule : Obligations.ExpandDerivesTheSchedule := by
  unfold Obligations.ExpandDerivesTheSchedule
  intro s hkey
  refine ⟨_, execExpand_full hkey, rfl, expandKey_getElem s.key 0 (by decide), fun r => ?_⟩
  rw [← rcon_listed r, expandKey_succ s.key r.val (by omega)]
  exact ⟨kstep_c0 _ _, kstep_c1 _ _, kstep_c2 _ _, kstep_c3 _ _⟩

/-- Settles O36: the range check decides between the step's detail, ending in entry `r`, and the refusal. -/
theorem kstepShowsTheDerivation : Obligations.KstepShowsTheDerivation := by
  unfold Obligations.KstepShowsTheDerivation
  refine fun r s => ⟨fun hkey h1 h2 => ?_, execKstep_outOfRange⟩
  exact ⟨_, execKstep_full hkey h1 h2, rfl, rfl, kstepDetail_derived s.key r.toNat h1 h2, rfl, rfl, rfl, rfl, rfl,
    doublings_eq_iterate (r.toNat - 1), rfl, rfl⟩

end Sys2Proof.Proofs
end

section
/-! PROOF. The round engine (44_round_primitives.md): each operation read byte by byte, and what undoes it. -/

namespace Sys2Proof.Machine

open Sys2Proof.Safety

/-! ### The commands on STATE (44_round_primitives.md R210 to R216) -/

/-- The completed state of a command that applies `f` to STATE. -/
def stateDone (f : Block → Block) (s : State) : State :=
  { s with state := f s.state, status := statusDone s.status }

theorem operandFull_stateDone (f : Block → Block) {s : State} {x : OpReg} (h : operandFull s x) :
    operandFull (stateDone f s) x := by
  cases x <;> exact h

theorem operandFull_withRk {s : State} {x : OpReg} (h : operandFull s x) : operandFull (withRk s) x := by
  cases x <;> exact h

theorem stateDone_stateDone (f g : Block → Block) (s : State) :
    stateDone g (stateDone f s) = stateDone (g ∘ f) s := rfl

theorem stateCommand_full (f : Block → Block) {s : State} (hstate : operandFull s .state) :
    stateCommand f s = .next (stateDone f s) := by
  rw [stateCommand, need_full hstate, guarded_none, guarded_nil, finish_ok_eq_statusDone, stateDone]

theorem execShrow_full {s : State} (hstate : operandFull s .state) :
    exec .shrow s = .next (stateDone shiftRows s) := stateCommand_full shiftRows hstate

theorem execArk_full {r : BitVec 4} {s : State} (hkey : operandFull s .key) (hstate : operandFull s .state)
    (h : r.toNat ≤ 10) :
    execArk r s = .next (stateDone (addRoundKey · (expandKey s.key)[r.toNat]) (withRk s)) := by
  rw [execArk, failIf_neg _ (by omega), need_full hkey, need_full hstate, guarded_none, guarded_none, guarded_none,
    guarded_nil, finish_ok_eq_statusDone, expandKey_getElem]
  rfl

theorem execArk_outOfRange {r : BitVec 4} {s : State} (h : 10 < r.toNat) :
    execArk r s = .next (failed s .illegalCommand) := by
  rw [execArk, failIf_pos _ h, guarded_some, finish_error_eq_failed]

theorem execAll_cons {i : Instr} {s t : State} (l : List Instr) (h : exec i s = .next t) :
    execAll (i :: l) s = execAll l t := by
  rw [execAll, h]

/-! ### Blocks byte by byte (00_scope.md R11 to R13) -/

theorem blockWord_xor (x y : Block) : ∀ c, blockWord (x.xor y) c = (blockWord x c).xor (blockWord y c)
  | 0 | 1 | 2 | _ + 3 => rfl

theorem wordByte_xor (v w : Word) : ∀ i, wordByte (v.xor w) i = wordByte v i ^^^ wordByte w i
  | 0 | 1 | 2 | _ + 3 => rfl

theorem blockByte_xor (x y : Block) (k : Nat) : blockByte (x.xor y) k = blockByte x k ^^^ blockByte y k := by
  rw [blockByte, blockWord_xor, wordByte_xor, blockByte, blockByte]

theorem Block.xor_xor_cancel (x k : Block) : (x.xor k).xor k = x :=
  block_ext fun i _ => by
    rw [blockByte_xor, blockByte_xor, BitVec.xor_assoc, BitVec.xor_self, BitVec.xor_zero]

theorem blockWord_columnMap (f : Word → Word) (x : Block) : ∀ c, blockWord (columnMap f x) c = f (blockWord x c)
  | 0 | 1 | 2 | _ + 3 => rfl

theorem wordByte_wordMap (f : Byte → Byte) (w : Word) : ∀ i, wordByte (wordMap f w) i = f (wordByte w i)
  | 0 | 1 | 2 | _ + 3 => rfl

/-- Byte `i` of column `c` of the State Grid. -/
theorem blockByte_column (x : Block) (c : Nat) {i : Nat} (hi : i < 4) :
    blockByte x (i + 4 * c) = wordByte (blockWord x c) i := by
  have column : (i + 4 * c) / 4 = c := by omega
  have row : (i + 4 * c) % 4 = i := by omega
  rw [blockByte, column, row]

theorem columnMap_leftInverse {f g : Word → Word} (h : Function.LeftInverse g f) :
    Function.LeftInverse (columnMap g) (columnMap f) := fun x => by
  simp only [columnMap, h _]

theorem wordMap_leftInverse {f g : Byte → Byte} (h : Function.LeftInverse g f) :
    Function.LeftInverse (wordMap g) (wordMap f) := fun w => by
  simp only [wordMap, h _]

theorem columnMap_xor {f : Word → Word} (h : ∀ v w : Word, f (v.xor w) = (f v).xor (f w)) (x y : Block) :
    columnMap f (x.xor y) = (columnMap f x).xor (columnMap f y) := by
  simp only [columnMap, Block.xor, h]

/-! ### SubBytes (44_round_primitives.md R202, R206) -/

/-- The table of R205 inverts the table of R201, over all 256 bytes. -/
theorem invSbox_sbox : Function.LeftInverse invSbox sbox := by
  unfold Function.LeftInverse
  decide

theorem sbox_invSbox : Function.LeftInverse sbox invSbox :=
  invSbox_sbox.rightInverse_of_surjective (Finite.surjective_of_injective invSbox_sbox.injective)

theorem blockByte_subBytes (x : Block) (k : Nat) : blockByte (subBytes x) k = sbox (blockByte x k) := by
  rw [blockByte, subBytes, blockWord_columnMap, wordByte_wordMap, blockByte]

theorem blockByte_invSubBytes (x : Block) (k : Nat) : blockByte (invSubBytes x) k = invSbox (blockByte x k) := by
  rw [blockByte, invSubBytes, blockWord_columnMap, wordByte_wordMap, blockByte]

theorem invSubBytes_subBytes : Function.LeftInverse invSubBytes subBytes :=
  columnMap_leftInverse (wordMap_leftInverse invSbox_sbox)

theorem subBytes_invSubBytes : Function.LeftInverse subBytes invSubBytes :=
  columnMap_leftInverse (wordMap_leftInverse sbox_invSbox)

/-! ### ShiftRows (44_round_primitives.md R203, R207) -/

theorem blockByte_shiftRows (x : Block) {r c : Nat} (hr : r < 4) (hc : c < 4) :
    blockByte (shiftRows x) (r + 4 * c) = blockByte x (r + 4 * ((c + r) % 4)) := by
  interval_cases r <;> interval_cases c <;> rfl

theorem blockByte_invShiftRows (x : Block) {r c : Nat} (hr : r < 4) (hc : c < 4) :
    blockByte (invShiftRows x) (r + 4 * c) = blockByte x (r + 4 * ((c + 4 - r) % 4)) := by
  interval_cases r <;> interval_cases c <;> rfl

theorem shiftRows_three : shiftRows ∘ shiftRows ∘ shiftRows = invShiftRows := rfl

/-! ### MixColumns (44_round_primitives.md R204, R208)

Each matrix is a circulant: the rows are the first row rotated. Circulants multiply as their first rows convolve, so
they commute, and the two matrices are inverse to each other because their rows convolve to the unit row. -/

/-- The circulant matrix with first row `m` times a column. -/
def circulant (m a : Word) : Word :=
  ⟨gfDot m.w0 m.w1 m.w2 m.w3 a, gfDot m.w3 m.w0 m.w1 m.w2 a,
    gfDot m.w2 m.w3 m.w0 m.w1 a, gfDot m.w1 m.w2 m.w3 m.w0 a⟩

/-- The cyclic convolution of two rows. -/
def convolve (m n : Word) : Word :=
  ⟨gfDot m.w0 m.w3 m.w2 m.w1 n, gfDot m.w1 m.w0 m.w3 m.w2 n,
    gfDot m.w2 m.w1 m.w0 m.w3 n, gfDot m.w3 m.w2 m.w1 m.w0 n⟩

/-- The first row of the matrix of R204. -/
def mixRow : Word := ⟨2, 3, 1, 1⟩

/-- The first row of the matrix of R208. -/
def invMixRow : Word := ⟨0x0E, 0x0B, 0x0D, 0x09⟩

theorem mixColumn_eq_circulant : mixColumn = circulant mixRow := rfl

theorem invMixColumn_eq_circulant : invMixColumn = circulant invMixRow := rfl

theorem wordByte_circulant (m a : Word) {i : Nat} (hi : i < 4) :
    wordByte (circulant m a) i =
      gmul m.w0 (wordByte a i) ^^^ gmul m.w1 (wordByte a ((i + 1) % 4)) ^^^
        gmul m.w2 (wordByte a ((i + 2) % 4)) ^^^ gmul m.w3 (wordByte a ((i + 3) % 4)) := by
  interval_cases i <;> simp only [circulant, wordByte, gfDot] <;> ac_rfl

theorem gfDot_xor (m0 m1 m2 m3 : Byte) (a b : Word) :
    gfDot m0 m1 m2 m3 (a.xor b) = gfDot m0 m1 m2 m3 a ^^^ gfDot m0 m1 m2 m3 b := by
  simp only [gfDot, Word.xor, gmul_xor]
  ac_rfl

theorem circulant_xor (m a b : Word) : circulant m (a.xor b) = (circulant m a).xor (circulant m b) := by
  simp only [circulant, gfDot_xor]
  rfl

theorem circulant_unit (a : Word) : circulant ⟨1, 0, 0, 0⟩ a = a := by
  simp only [circulant, gfDot, one_gmul, zero_gmul]
  simp only [BitVec.ofNat_eq_ofNat, BitVec.xor_zero, BitVec.zero_xor]

theorem convolve_comm (m n : Word) : convolve m n = convolve n m := by
  simp only [convolve, gfDot, Word.mk.injEq, gmul_comm n.w0, gmul_comm n.w1, gmul_comm n.w2, gmul_comm n.w3]
  refine ⟨?_, ?_, ?_, ?_⟩ <;> ac_rfl

theorem circulant_circulant (m n a : Word) : circulant m (circulant n a) = circulant (convolve m n) a := by
  simp only [circulant, convolve, gfDot, gmul_xor, xor_gmul, gmul_assoc, Word.mk.injEq]
  refine ⟨?_, ?_, ?_, ?_⟩ <;> ac_rfl

theorem convolve_mixRow_invMixRow : convolve mixRow invMixRow = ⟨1, 0, 0, 0⟩ := by rfl

theorem mixColumn_invMixColumn : Function.LeftInverse mixColumn invMixColumn := fun a => by
  rw [mixColumn_eq_circulant, invMixColumn_eq_circulant, circulant_circulant, convolve_mixRow_invMixRow,
    circulant_unit]

theorem invMixColumn_mixColumn : Function.LeftInverse invMixColumn mixColumn := fun a => by
  rw [mixColumn_eq_circulant, invMixColumn_eq_circulant, circulant_circulant, convolve_comm,
    convolve_mixRow_invMixRow, circulant_unit]

theorem mixColumns_invMixColumns : Function.LeftInverse mixColumns invMixColumns :=
  columnMap_leftInverse mixColumn_invMixColumn

theorem invMixColumns_mixColumns : Function.LeftInverse invMixColumns mixColumns :=
  columnMap_leftInverse invMixColumn_mixColumn

theorem mixColumns_xor (x y : Block) : mixColumns (x.xor y) = (mixColumns x).xor (mixColumns y) :=
  columnMap_xor (circulant_xor mixRow) x y

/-- Byte `i` of a column that a circulant has multiplied, in the bytes of the block. -/
theorem blockByte_columnMap_circulant (m : Word) (x : Block) (c : Nat) {i : Nat} (hi : i < 4) :
    blockByte (columnMap (circulant m) x) (i + 4 * c) =
      gmul m.w0 (blockByte x (i + 4 * c)) ^^^ gmul m.w1 (blockByte x ((i + 1) % 4 + 4 * c)) ^^^
        gmul m.w2 (blockByte x ((i + 2) % 4 + 4 * c)) ^^^ gmul m.w3 (blockByte x ((i + 3) % 4 + 4 * c)) := by
  have row (j : Nat) : j % 4 < 4 := Nat.mod_lt j (by decide)
  rw [blockByte_column _ c hi, blockWord_columnMap, wordByte_circulant m _ hi, blockByte_column x c hi,
    blockByte_column x c (row _), blockByte_column x c (row _), blockByte_column x c (row _)]

theorem blockByte_mixColumns (x : Block) (c : Nat) {i : Nat} (hi : i < 4) :
    blockByte (mixColumns x) (i + 4 * c) =
      gmul 2 (blockByte x (i + 4 * c)) ^^^ gmul 3 (blockByte x ((i + 1) % 4 + 4 * c)) ^^^
        blockByte x ((i + 2) % 4 + 4 * c) ^^^ blockByte x ((i + 3) % 4 + 4 * c) := by
  rw [mixColumns, mixColumn_eq_circulant, blockByte_columnMap_circulant _ _ _ hi]
  simp only [mixRow, one_gmul]

end Sys2Proof.Machine

namespace Sys2Proof.Proofs

open Sys2Proof.Machine Sys2Proof.Safety

/-! ### The obligations on the round engine -/

/-- Settles O37: the range check decides between the XOR with entry `r`, which cancels itself, and the refusal. -/
theorem arkAddsTheRoundKey : Obligations.ArkAddsTheRoundKey := by
  unfold Obligations.ArkAddsTheRoundKey
  refine fun r s => ⟨fun hkey hstate h => ?_, execArk_outOfRange⟩
  have full {x : OpReg} (hx : operandFull s x) :=
    operandFull_stateDone (addRoundKey · (expandKey s.key)[r.toNat]) (operandFull_withRk hx)
  exact ⟨_, execArk_full hkey hstate h, rfl, fun k _ => blockByte_xor _ _ k,
    _, execArk_full (full hkey) (full hstate) h, Block.xor_xor_cancel _ _⟩

/-- Settles O38: both commands map every byte, by tables that are inverse to each other. -/
theorem subbAndInvsubb : Obligations.SubbAndInvsubb := by
  unfold Obligations.SubbAndInvsubb
  refine fun s hstate => ⟨?_, ?_⟩
  · exact ⟨_, _, stateCommand_full subBytes hstate, rfl, fun k _ => blockByte_subBytes s.state k,
      stateCommand_full invSubBytes (operandFull_stateDone subBytes hstate), invSubBytes_subBytes s.state⟩
  · exact ⟨_, _, stateCommand_full invSubBytes hstate, rfl, fun k _ => blockByte_invSubBytes s.state k,
      stateCommand_full subBytes (operandFull_stateDone invSubBytes hstate), subBytes_invSubBytes s.state⟩

/-- Settles O39: each command permutes the grid, and three rotations by `r` are one by `-r`. -/
theorem shrowAndInvshrow : Obligations.ShrowAndInvshrow := by
  unfold Obligations.ShrowAndInvshrow
  refine fun s hstate => ⟨?_, ?_⟩
  · exact ⟨_, execShrow_full hstate, rfl, fun _ _ => blockByte_shiftRows s.state⟩
  · refine ⟨_, stateCommand_full invShiftRows hstate, rfl, fun _ _ => blockByte_invShiftRows s.state, ?_⟩
    have once := operandFull_stateDone shiftRows hstate
    have twice := operandFull_stateDone shiftRows once
    rw [execAll_cons _ (execShrow_full hstate), execAll_cons _ (execShrow_full once),
      execAll_cons _ (execShrow_full twice), stateDone_stateDone, stateDone_stateDone, Function.comp_assoc,
      shiftRows_three, execAll]

/-- Settles O40: both commands multiply the columns by circulants, whose first rows convolve to the unit row. -/
theorem mixcolAndInvmixcol : Obligations.MixcolAndInvmixcol := by
  unfold Obligations.MixcolAndInvmixcol
  refine ⟨fun s hstate => ⟨?_, ?_⟩, mixColumns_xor⟩
  · exact ⟨_, _, stateCommand_full mixColumns hstate, rfl, fun c _ _ => blockByte_mixColumns s.state c,
      stateCommand_full invMixColumns (operandFull_stateDone mixColumns hstate), invMixColumns_mixColumns s.state⟩
  · exact ⟨_, _, stateCommand_full invMixColumns hstate, rfl,
      fun c _ _ => blockByte_columnMap_circulant invMixRow s.state c,
      stateCommand_full mixColumns (operandFull_stateDone invMixColumns hstate), mixColumns_invMixColumns s.state⟩

end Sys2Proof.Proofs
end

section
/-! PROOF. The block cipher (45_block_cipher.md): its commands' results, ENCB as its single steps, the two directions
undone round by round, and the trace. -/

namespace Sys2Proof.Machine

open Sys2Proof.Safety

/-! ### The commands with full operands (45_block_cipher.md R232 to R234) -/

/-- The completed state of a command that used AES with KEY and left `x` in STATE. -/
def cipherDone (s : State) (x : Block) : State := stateDone (fun _ => x) (withRk s)

theorem operandFull_cipherDone {s : State} {y : OpReg} (x : Block) (h : operandFull s y) :
    operandFull (cipherDone s x) y :=
  operandFull_stateDone _ (operandFull_withRk h)

/-- What ENCB and DECB share: with full operands the result `x` for STATE is written, and the RK snapshot. -/
theorem finish_withRk_full {s : State} (hkey : operandFull s .key) (hstate : operandFull s .state) (x : Block) :
    finish s (guarded [need s .key, need s .state] { withRk s with state := x }) = .next (cipherDone s x) := by
  rw [need_full hkey, need_full hstate, guarded_none, guarded_none, guarded_nil, finish_ok_eq_statusDone]
  rfl

theorem execEncb_full {s : State} (hkey : operandFull s .key) (hstate : operandFull s .state) :
    exec .encb s = .next (cipherDone s (aesEncrypt s.state s.key)) := finish_withRk_full hkey hstate _

theorem execDecb_full {s : State} (hkey : operandFull s .key) (hstate : operandFull s .state) :
    exec .decb s = .next (cipherDone s (aesDecrypt s.state s.key)) := finish_withRk_full hkey hstate _

/-- The completed state of TRACE `r`. -/
def traceDone (s : State) (r : Nat) : State :=
  { withRk s with
    tr := traceRegs s.state s.key r
    ksd := kstepDetail (roundKey s.key r) (r + 1)
    status := statusDone s.status }

theorem execTrace_full {r : BitVec 4} {s : State} (hkey : operandFull s .key) (hstate : operandFull s .state)
    (h : r.toNat ≤ 9) : execTrace r s = .next (traceDone s r.toNat) := by
  rw [execTrace, failIf_neg _ (by omega), need_full hkey, need_full hstate, guarded_none, guarded_none, guarded_none,
    guarded_nil, finish_ok_eq_statusDone]
  rfl

theorem execTrace_outOfRange {r : BitVec 4} {s : State} (h : 9 < r.toNat) :
    execTrace r s = .next (failed s .illegalCommand) := by
  rw [execTrace, failIf_pos _ h, guarded_some, finish_error_eq_failed]

/-! ### ENCB as its single steps (45_block_cipher.md R230) -/

theorem execAll_append (l m : List Instr) (s : State) : execAll (l ++ m) s = (execAll l s).bind (execAll m) := by
  induction l generalizing s with
  | nil => rfl
  | cons i l ih =>
    rw [List.cons_append, execAll, execAll]
    cases exec i s with
    | next t => exact ih t
    | fault | refused => rfl

/-- ARK 0 and the commands of rounds `1..n`: the steps of `encState`. -/
def roundsUpTo : Nat → List Instr
  | 0 => [.ark 0]
  | n + 1 => roundsUpTo n ++ roundCommands (.ofNat 4 (n + 1))

theorem encryptCommands_eq : encryptCommands = roundsUpTo 9 ++ [.subb, .shrow, .ark 10] := rfl

section
variable {s : State} (hkey : operandFull s .key) (hstate : operandFull s .state)

include hstate in
/-- The single steps that use no key map STATE and keep what AES with KEY has left. -/
theorem stateCommand_cipherDone (f : Block → Block) (x : Block) :
    stateCommand f (cipherDone s x) = .next (cipherDone s (f x)) :=
  stateCommand_full f (operandFull_cipherDone x hstate)

include hstate in
/-- Every round but the initial AddRoundKey begins with these two steps. -/
theorem execAll_subb_shrow (l : List Instr) (x : Block) :
    execAll (.subb :: .shrow :: l) (cipherDone s x) = execAll l (cipherDone s (shiftRows (subBytes x))) := by
  rw [execAll_cons (i := .subb) _ (stateCommand_cipherDone hstate subBytes x),
    execAll_cons (i := .shrow) _ (stateCommand_cipherDone hstate shiftRows _)]

include hkey hstate

/-- On a state that AES with KEY has left, ARK adds a round key of the same KEY. -/
theorem execArk_cipherDone {r : BitVec 4} {k : Nat} (hr : r.toNat = k) (hk : k ≤ 10) (x : Block) :
    exec (.ark r) (cipherDone s x) = .next (cipherDone s (addRoundKey x (roundKey s.key k))) := by
  subst hr
  rw [← expandKey_getElem s.key r.toNat (by omega)]
  exact execArk_full (operandFull_cipherDone x hkey) (operandFull_cipherDone x hstate) hk

theorem execAll_roundCommands {n : Nat} (hn : n < 9) (x : Block) :
    execAll (roundCommands (.ofNat 4 (n + 1))) (cipherDone s x) =
      some (cipherDone s (encRound x (roundKey s.key (n + 1)))) := by
  have index : (BitVec.ofNat 4 (n + 1)).toNat = n + 1 := by
    rw [BitVec.toNat_ofNat, Nat.mod_eq_of_lt (by omega)]
  rw [roundCommands, execAll_subb_shrow hstate,
    execAll_cons (i := .mixcol) _ (stateCommand_cipherDone hstate mixColumns _),
    execAll_cons _ (execArk_cipherDone hkey hstate index (by omega) _), execAll, encRound]

theorem execAll_roundsUpTo {n : Nat} (hn : n ≤ 9) :
    execAll (roundsUpTo n) s = some (cipherDone s (encState s.state s.key n)) := by
  induction n with
  | zero => exact execAll_cons [] (execArk_full hkey hstate (by decide))
  | succ n ih =>
    rw [roundsUpTo, execAll_append, ih (by omega), Option.bind_some, execAll_roundCommands hkey hstate hn, encState]

end

/-! ### D_aes undoes E_aes round by round (45_block_cipher.md R231)

Both directions meet at the points `shiftRows (subBytes (encState p k n))`: a middle round of D_aes goes from one such
point to the one before. -/

theorem addRoundKey_addRoundKey (x k : Block) : addRoundKey (addRoundKey x k) k = x := Block.xor_xor_cancel x k

theorem invShiftRows_shiftRows : Function.LeftInverse invShiftRows shiftRows := fun _ => rfl

theorem shiftRows_invShiftRows : Function.LeftInverse shiftRows invShiftRows := fun _ => rfl

theorem decRound_encRound (x k : Block) :
    decRound (shiftRows (subBytes (encRound x k))) k = shiftRows (subBytes x) := by
  rw [decRound, invShiftRows_shiftRows, invSubBytes_subBytes, encRound, addRoundKey_addRoundKey,
    invMixColumns_mixColumns]

theorem encRound_decRound (x k : Block) :
    encRound (invSubBytes (invShiftRows (decRound x k))) k = invSubBytes (invShiftRows x) := by
  rw [encRound, subBytes_invSubBytes, shiftRows_invShiftRows, decRound, mixColumns_invMixColumns,
    addRoundKey_addRoundKey]

theorem decRounds_encState (p k : Block) (n : Nat) :
    decRounds k n (shiftRows (subBytes (encState p k n))) = shiftRows (subBytes (encState p k 0)) := by
  induction n with
  | zero => rfl
  | succ n ih => rw [← ih, decRounds, encState, decRound_encRound]

theorem encState_decRounds {p k : Block} (n : Nat) (x : Block)
    (h : encState p k 0 = invSubBytes (invShiftRows (decRounds k n x))) :
    encState p k n = invSubBytes (invShiftRows x) := by
  induction n generalizing x with
  | zero => exact h
  | succ n ih => rw [encState, ih _ h, encRound_decRound]

theorem aesDecrypt_aesEncrypt (p k : Block) : aesDecrypt (aesEncrypt p k) k = p := by
  rw [aesDecrypt, aesEncrypt, addRoundKey_addRoundKey, decRounds_encState, invShiftRows_shiftRows,
    invSubBytes_subBytes, encState, addRoundKey_addRoundKey]

theorem aesEncrypt_aesDecrypt (c k : Block) : aesEncrypt (aesDecrypt c k) k = c := by
  have start : encState (aesDecrypt c k) k 0 =
      invSubBytes (invShiftRows (decRounds k 9 (addRoundKey c (roundKey k 10)))) :=
    addRoundKey_addRoundKey _ _
  rw [aesEncrypt, encState_decRounds 9 _ start, subBytes_invSubBytes, shiftRows_invShiftRows,
    addRoundKey_addRoundKey]

section
variable {s : State} (hkey : operandFull s .key) (hstate : operandFull s .state)
include hkey hstate

theorem execEncb_cipherDone (x : Block) :
    exec .encb (cipherDone s x) = .next (cipherDone s (aesEncrypt x s.key)) :=
  execEncb_full (operandFull_cipherDone x hkey) (operandFull_cipherDone x hstate)

theorem execDecb_cipherDone (x : Block) :
    exec .decb (cipherDone s x) = .next (cipherDone s (aesDecrypt x s.key)) :=
  execDecb_full (operandFull_cipherDone x hkey) (operandFull_cipherDone x hstate)

theorem execAll_encb_decb : execAll [.encb, .decb] s = some (cipherDone s s.state) := by
  rw [execAll_cons _ (execEncb_full hkey hstate), execAll_cons _ (execDecb_cipherDone hkey hstate _),
    aesDecrypt_aesEncrypt, execAll]

theorem execAll_decb_encb : execAll [.decb, .encb] s = some (cipherDone s s.state) := by
  rw [execAll_cons _ (execDecb_full hkey hstate), execAll_cons _ (execEncb_cipherDone hkey hstate _),
    aesEncrypt_aesDecrypt, execAll]

end

/-! ### The trace (45_block_cipher.md R232) -/

/-- A display round starts with its AddRoundKey, a round of E_aes ends with it. -/
theorem addRoundKey_traceInput (p k : Block) (n : Nat) :
    addRoundKey (traceInput p k n) (roundKey k n) = encState p k n := by
  induction n with
  | zero => rfl
  | succ n ih => rw [traceInput, ih, encState, encRound]

theorem traceRegs_last_middle (p k : Block) {r : Nat} (h : r ≤ 8) :
    (traceRegs p k r).last = mixColumns (traceRegs p k r).sr := if_pos h

/-- A display round but the last ends where the next one starts. -/
theorem traceRegs_input_succ (p k : Block) {r : Nat} (h : r ≤ 8) :
    (traceRegs p k (r + 1)).input = (traceRegs p k r).last := (traceRegs_last_middle p k h).symm

theorem traceRegs_last_final (p k : Block) : (traceRegs p k 9).last = aesEncrypt p k := by
  rw [aesEncrypt, ← addRoundKey_traceInput]
  rfl

end Sys2Proof.Machine

namespace Sys2Proof.Proofs

open Sys2Proof.Machine Sys2Proof.Safety

/-! ### The obligations on the block cipher -/

/-- Settles O41: with full operands no check fails, and CTRL is not read. -/
theorem encbAndDecbResults : Obligations.EncbAndDecbResults := by
  unfold Obligations.EncbAndDecbResults
  exact fun s hkey hstate => ⟨execEncb_full hkey hstate, execDecb_full hkey hstate⟩

/-- Settles O42: ARK 0 and the nine rounds leave `encState` of nine rounds, which the last three commands finish. -/
theorem encbEqualsSingleSteps : Obligations.EncbEqualsSingleSteps := by
  unfold Obligations.EncbEqualsSingleSteps
  refine fun s hkey hstate => ⟨_, execEncb_full hkey hstate, ?_⟩
  rw [encryptCommands_eq, execAll_append, execAll_roundsUpTo hkey hstate (le_refl 9), Option.bind_some, aesEncrypt,
    execAll_subb_shrow hstate, execAll_cons _ (execArk_cipherDone hkey hstate (k := 10) rfl (le_refl 10) _), execAll]

/-- Settles O43: D_aes and E_aes undo each other under one KEY, which neither command writes. -/
theorem decbInvertsEncb : Obligations.DecbInvertsEncb := by
  unfold Obligations.DecbInvertsEncb
  intro s hkey hstate
  exact ⟨⟨_, execAll_encb_decb hkey hstate, rfl⟩, ⟨_, execAll_decb_encb hkey hstate, rfl⟩, aesDecrypt_aesEncrypt⟩

/-- Settles O44: the registers are the stages of one display round, whose ends meet, and the detail of one schedule
step; the last round ends in the ciphertext. -/
theorem traceShowsTheRounds : Obligations.TraceShowsTheRounds := by
  unfold Obligations.TraceShowsTheRounds
  refine fun r s => ⟨fun hkey hstate h => ?_, execTrace_outOfRange⟩
  have next (h8 : r.toNat ≤ 8) : exec (.trace (r + 1)) s = .next (traceDone s (r.toNat + 1)) := by
    have succ : (r + 1).toNat = r.toNat + 1 := by bv_omega
    rw [← succ]
    exact execTrace_full hkey hstate (by omega)
  rw [expandKey_getElem, expandKey_getElem]
  exact ⟨traceDone s r.toNat, execTrace_full hkey hstate h, rfl, fun h0 => by subst h0; rfl, rfl, rfl, rfl,
    fun h8 => ⟨traceRegs_last_middle _ _ h8, _, next h8, traceRegs_input_succ _ _ h8⟩,
    fun h9 => by rw [traceDone, h9]; exact traceRegs_last_final _ _,
    rfl, rfl, rfl, rfl, rfl, rfl, rfl, doublings_eq_iterate r.toNat, rfl, rfl⟩

end Sys2Proof.Proofs
end

section
/-! PROOF. The chaining modes (46_modes.md): what each mode command answers with full operands, the length checks, the
blocks of its output, and the round trips through XFER. -/

namespace Sys2Proof.Machine

open Sys2Proof.Safety

/-! ### The cipher of CTRL (46_modes.md R251) -/

theorem ctrlCipher_eq_some_iff (s : State) :
    (ctrlCipher s = some .aes ↔ s.ctrl.extractLsb' 3 2 = 0) ∧
      (ctrlCipher s = some .xor ↔ s.ctrl.extractLsb' 3 2 = 1) := by
  rw [← BitVec.toNat_inj, ← BitVec.toNat_inj]
  unfold ctrlCipher
  generalize (s.ctrl.extractLsb' 3 2).toNat = cipher
  match cipher with
  | 0 | 1 | _ + 2 => simp

theorem blockDec_blockEnc (c : Cipher) (k : Block) : Function.LeftInverse (blockDec c k) (blockEnc c k) := fun x => by
  cases c with
  | aes => exact aesDecrypt_aesEncrypt x k
  | xor => exact Block.xor_xor_cancel x k

/-! ### The length checks (46_modes.md R250, R254 to R258) -/

/-- The lengths an encrypting command with padding by PAD accepts. -/
abbrev EncLengthOk (s : State) : Prop :=
  s.len.toNat ≤ s.cfg.msgbufBytes ∧ (ctrlPad s = true ∨ s.len.toNat % 16 = 0)

/-- The lengths a decrypting command accepts. -/
abbrev DecLengthOk (s : State) : Prop :=
  s.len.toNat ≤ s.cfg.msgbufBytes ∧ s.len.toNat % 16 = 0 ∧ (ctrlPad s = true → s.len.toNat ≠ 0)

theorem guarded_failIf {α : Type} (bad : Prop) [Decidable bad] (e : CmdError) (l : List (Option CmdError)) (r : α) :
    guarded (failIf bad e :: l) r = if bad then .error e else guarded l r := by
  by_cases h : bad
  · rw [failIf_pos e h, if_pos h, guarded_some]
  · rw [failIf_neg e h, if_neg h, guarded_none]

theorem guarded_encLength {α : Type} (s : State) (r : α) :
    guarded [needLen s, needAlignedEnc s] r = if EncLengthOk s then .ok r else .error .invalidBlockLength := by
  rw [needLen, needAlignedEnc, guarded_failIf, guarded_failIf, guarded_nil, ← ite_or, ← ite_not]
  refine if_congr ?_ rfl rfl
  simp only [not_or, not_and_or, not_lt, Bool.not_eq_false, ne_eq, not_not]

theorem guarded_decLength {α : Type} (s : State) (r : α) :
    guarded [needLen s, needAlignedDec s, needNonempty s] r =
      if DecLengthOk s then .ok r else .error .invalidBlockLength := by
  rw [needLen, needAlignedDec, needNonempty, guarded_failIf, guarded_failIf, guarded_failIf, guarded_nil, ← ite_or,
    ← ite_or, ← ite_not]
  refine if_congr ?_ rfl rfl
  simp only [not_or, not_lt, ne_eq, not_not, not_and, and_assoc]

theorem guarded_needLen {α : Type} (s : State) (r : α) :
    guarded [needLen s] r = if s.len.toNat ≤ s.cfg.msgbufBytes then .ok r else .error .invalidBlockLength := by
  rw [needLen, guarded_failIf, guarded_nil, ← ite_not]
  exact if_congr not_lt rfl rfl

theorem finish_ite (s r : State) (e : CmdError) (ok : Prop) [Decidable ok] :
    finish s (if ok then .ok r else .error e) = if ok then .next (completeOk r) else .next (failed s e) := by
  split <;> rfl

theorem not_encLengthOk_of_long {s : State} (h : s.cfg.msgbufBytes < s.len.toNat) : ¬ EncLengthOk s :=
  fun ok => absurd ok.1 (not_le.2 h)

theorem not_encLengthOk_of_unaligned {s : State} (hpad : ctrlPad s = false) (h : s.len.toNat % 16 ≠ 0) :
    ¬ EncLengthOk s := fun ok => by
  rcases ok.2 with hpad' | h'
  · exact absurd hpad (by rw [hpad']; decide)
  · exact h h'

theorem not_decLengthOk_of_long {s : State} (h : s.cfg.msgbufBytes < s.len.toNat) : ¬ DecLengthOk s :=
  fun ok => absurd ok.1 (not_le.2 h)

theorem not_decLengthOk_of_unaligned {s : State} (h : s.len.toNat % 16 ≠ 0) : ¬ DecLengthOk s :=
  fun ok => h ok.2.1

theorem not_decLengthOk_of_empty {s : State} (hpad : ctrlPad s = true) (h : s.len.toNat = 0) : ¬ DecLengthOk s :=
  fun ok => ok.2.2 hpad h

/-! ### The blocks of the messages (46_modes.md R252, R256 to R258) -/

theorem wholeBlocks_bytesOf (bs : List Block) : wholeBlocks (bytesOf bs) = bs := by
  rw [wholeBlocks, bytesOf_length, Nat.mul_div_cancel_left _ (by decide), blocksOf_bytesOf]

theorem bytesOf_wholeBlocks {l : List Byte} (h : l.length % 16 = 0) : bytesOf (wholeBlocks l) = l :=
  bytesOf_blocksOf _ _ (by omega)

/-- How many pad bytes an encrypting command adds. -/
def padCount (s : State) : Nat := if ctrlPad s then 16 - s.len.toNat % 16 else 0

theorem padMessage_eq (s : State) :
    padMessage s = readIn s s.len.toNat ++ List.replicate (padCount s) (BitVec.ofNat 8 (padCount s)) := by
  unfold padMessage padCount pkcs7Pad
  split
  · rw [message_length]; rfl
  · rw [List.replicate_zero, List.append_nil]; rfl

theorem padMessage_length_mod {s : State} (h : EncLengthOk s) : (padMessage s).length % 16 = 0 := by
  obtain ⟨_, hpad | hblocks⟩ := h <;> rw [padMessage_length]
  · rw [if_pos hpad]; omega
  · split <;> omega

/-- The last ciphertext block of a sequence of whole blocks. -/
theorem lastBlock_wholeBlocks (iv : Block) (l : List Byte) :
    lastBlock iv (wholeBlocks l) = if l.length / 16 = 0 then iv else blockAt l (l.length / 16 - 1) := by
  rw [lastBlock, List.getLast?_eq_getElem?, wholeBlocks_length]
  split
  next h => rw [List.getElem?_eq_none (by rw [wholeBlocks_length, h])]; rfl
  next h =>
    rw [List.getElem?_eq_getElem (by rw [wholeBlocks_length]; omega), Option.getD_some, wholeBlocks_getElem]

theorem blockAt_bytesOf_map (f : Block → Block) (l : List Byte) {i : Nat} (h : i < l.length / 16) :
    blockAt (bytesOf ((wholeBlocks l).map f)) i = f (blockAt l i) := by
  rw [blockAt_bytesOf _ _ (by simpa using h), List.getElem_map, wholeBlocks_getElem]

/-- The ciphertext blocks of CBC with KEY and IV on the padded message `l`. -/
def chainedBlocks (c : Cipher) (s : State) (l : List Byte) : List Block :=
  cbcEncBlocks (blockEnc c s.key) s.iv (wholeBlocks l)

theorem chainedBlocks_length (c : Cipher) (s : State) (l : List Byte) :
    (chainedBlocks c s l).length = l.length / 16 := by
  rw [chainedBlocks, cbcEncBlocks_length, wholeBlocks_length]

/-- Each block of CBC encryption, by the output block before it. -/
theorem blockAt_chainedBlocks (c : Cipher) (s : State) (l : List Byte) {i : Nat} (h : i < l.length / 16) :
    blockAt (bytesOf (chainedBlocks c s l)) i = blockEnc c s.key
      ((blockAt l i).xor (if i = 0 then s.iv else blockAt (bytesOf (chainedBlocks c s l)) (i - 1))) := by
  rw [← chainedBlocks_length c s l] at h
  rw [blockAt_bytesOf _ i h, blockAt_bytesOf _ (i - 1) (by omega)]
  have previous : i - 1 < (chainedBlocks c s l).length := by omega
  simp only [chainedBlocks] at h previous ⊢
  rw [cbcEncBlocks_getElem, wholeBlocks_getElem, List.getD_eq_getElem _ _ previous]

/-- The last ciphertext block of CBC encryption, or IV. -/
theorem lastBlock_chainedBlocks (c : Cipher) (s : State) (l : List Byte) :
    lastBlock s.iv (chainedBlocks c s l) =
      if l.length / 16 = 0 then s.iv else blockAt (bytesOf (chainedBlocks c s l)) (l.length / 16 - 1) := by
  have h := lastBlock_wholeBlocks s.iv (bytesOf (chainedBlocks c s l))
  rwa [wholeBlocks_bytesOf, bytesOf_length, Nat.mul_div_cancel_left _ (by decide), chainedBlocks_length] at h

/-- Each block of CBC decryption, by the ciphertext block before it. -/
theorem blockAt_cbcDecBlocks (d : Block → Block) (iv : Block) (l : List Byte) {i : Nat} (h : i < l.length / 16) :
    blockAt (bytesOf (cbcDecBlocks d iv (wholeBlocks l))) i =
      (d (blockAt l i)).xor (if i = 0 then iv else blockAt l (i - 1)) := by
  have inside : i - 1 < (wholeBlocks l).length := by rw [wholeBlocks_length]; omega
  rw [blockAt_bytesOf _ _ (by rwa [cbcDecBlocks_length, wholeBlocks_length]), cbcDecBlocks_getElem,
    wholeBlocks_getElem, List.getD_eq_getElem _ _ inside, wholeBlocks_getElem]

theorem cbcDecBlocks_cbcEncBlocks {d e : Block → Block} (h : Function.LeftInverse d e) (iv : Block)
    (xs : List Block) : cbcDecBlocks d iv (cbcEncBlocks e iv xs) = xs := by
  induction xs generalizing iv with
  | nil => rfl
  | cons x xs ih => rw [cbcEncBlocks, cbcDecBlocks, h, Block.xor_xor_cancel, ih]

theorem truncPadded_message (pad : TruncPad) (s : State) :
    truncPadded pad (message s) =
      readIn s s.len.toNat ++ List.replicate (16 * ((s.len.toNat + 15) / 16) - s.len.toNat)
        (if pad = .pkcs7 then BitVec.ofNat 8 (16 * ((s.len.toNat + 15) / 16) - s.len.toNat) else 0) := by
  unfold truncPadded
  rw [message_length]
  cases pad <;> rfl

/-- The blocks CBCENCT chains, before it truncates their bytes. -/
def truncBlocks (c : Cipher) (s : State) : List Block := chainedBlocks c s (truncPadded s.cfg.truncPad (message s))

theorem truncPadded_message_blocks (pad : TruncPad) (s : State) :
    (truncPadded pad (message s)).length / 16 = (s.len.toNat + 15) / 16 := by
  rw [truncPadded_length, message_length, Nat.mul_div_cancel_left _ (by decide)]

theorem take_truncBlocks_length (c : Cipher) (s : State) :
    ((bytesOf (truncBlocks c s)).take s.len.toNat).length = s.len.toNat := by
  rw [List.length_take, bytesOf_length, truncBlocks, chainedBlocks_length, truncPadded_message_blocks]
  omega

/-- PKCS7 strip undoes PKCS7 padding: the last byte is the number of pad bytes. -/
theorem pkcs7Strip_pkcs7Pad (l : List Byte) : pkcs7Strip (pkcs7Pad l) = .ok l := by
  have count : 0 < 16 - l.length % 16 ∧ 16 - l.length % 16 < 256 := by omega
  have last : (pkcs7Pad l).getLast? = some (BitVec.ofNat 8 (16 - l.length % 16)) := by
    rw [pkcs7Pad, List.getLast?_append_of_ne_nil _ (by simp; omega), List.getLast?_replicate, if_neg (by omega)]
  have strip : ((pkcs7Pad l).getLast?.getD 0).toNat = 16 - l.length % 16 := by
    rw [last, Option.getD_some, BitVec.toNat_ofNat, Nat.mod_eq_of_lt count.2]
  have length : (pkcs7Pad l).length = l.length + (16 - l.length % 16) := by
    rw [pkcs7Pad, List.length_append, List.length_replicate]
  simp only [pkcs7Strip, strip]
  rw [if_neg (by omega), length, Nat.add_sub_cancel, pkcs7Pad, List.take_left]

/-- A decrypting command strips what an encrypting one padded under the same CTRL. -/
theorem stripMessage_padMessage {s t : State} (h : t.ctrl = s.ctrl) :
    stripMessage t (padMessage s) = .ok (message s) := by
  have pad : ctrlPad t = ctrlPad s := by rw [ctrlPad, h, ctrlPad]
  unfold stripMessage padMessage
  rw [pad]
  split
  · exact pkcs7Strip_pkcs7Pad _
  · rfl

/-! ### The counter blocks (46_modes.md R261, R262) -/

theorem halfToBits_halfOfBits (v : BitVec 64) : halfToBits (halfOfBits v) = v := by
  rw [halfToBits, halfOfBits, wordToBits_wordOfBits, wordToBits_wordOfBits,
    BitVec.extractLsb'_append_extractLsb'_eq_extractLsb' (show 32 = 0 + 32 from rfl), BitVec.extractLsb'_eq_self]

theorem extractLsb'_of_extractLsb' {w : Nat} (v : BitVec w) {low n start len : Nat} (h : start + len ≤ n) :
    (v.extractLsb' low n).extractLsb' start len = v.extractLsb' (low + start) len := by
  ext i hi
  have inside : start + i < n := by omega
  simp only [BitVec.getElem_extractLsb', BitVec.getLsbD_extractLsb', decide_eq_true inside, Bool.true_and,
    Nat.add_assoc]

/-- Byte `k` of an 8-byte register. -/
theorem halfWord_halfOfBits (v : BitVec 64) {k : Nat} (hk : k < 8) :
    wordByte (halfWord (halfOfBits v) (k / 4)) (k % 4) = v.extractLsb' (56 - 8 * k) 8 := by
  interval_cases k <;> exact extractLsb'_of_extractLsb' v (by decide)

theorem enc8_byte (le : Bool) (v : BitVec 64) {k : Nat} (hk : k < 8) :
    wordByte (halfWord (enc8 le v) (k / 4)) (k % 4) = v.extractLsb' (if le then 8 * k else 56 - 8 * k) 8 := by
  cases le with
  | false => exact halfWord_halfOfBits v hk
  | true =>
    have reversed : wordByte (halfWord (enc8 true v) (k / 4)) (k % 4) =
        wordByte (halfWord (halfOfBits v) ((7 - k) / 4)) ((7 - k) % 4) := by
      interval_cases k <;> rfl
    rw [reversed, halfWord_halfOfBits v (by omega), show 56 - 8 * (7 - k) = 8 * k by omega, if_pos rfl]

theorem ctrBlock_nonce (s : State) (i : Nat) {k : Nat} (hk : k < 8) :
    blockByte (ctrBlock s i) k = operandByte s .nonce k := by
  interval_cases k <;> rfl

theorem ctrBlock_counter (s : State) (i : Nat) {k : Nat} (hk : k < 8) :
    blockByte (ctrBlock s i) (8 + k) =
      (ctrValue s i).extractLsb' (if ctrlCtrLe s then 8 * k else 56 - 8 * k) 8 := by
  rw [← enc8_byte _ _ hk]
  interval_cases k <;> rfl

/-- The message of CTRX XORed with its keystream. -/
def ctrText (c : Cipher) (s : State) : List Byte :=
  List.zipWith (· ^^^ ·) (message s) (keystream c s ((s.len.toNat + 15) / 16))

theorem keystream_length (c : Cipher) (s : State) (m : Nat) : (keystream c s m).length = 16 * m := by
  rw [keystream, bytesOf_length, List.length_map, List.length_range]

theorem ctrText_length (c : Cipher) (s : State) : (ctrText c s).length = s.len.toNat := by
  rw [ctrText, List.length_zipWith, message_length, keystream_length]
  omega

theorem keystream_getElem (c : Cipher) (s : State) {m j : Nat} (h : j < (keystream c s m).length) :
    (keystream c s m)[j] = blockByte (blockEnc c s.key (ctrBlock s (j / 16))) (j % 16) := by
  simp only [keystream, getElem_bytesOf, List.getElem_map, List.getElem_range]

theorem message_getElem (s : State) {j : Nat} (h : j < (message s).length) : (message s)[j] = inByte s j :=
  readIn_getElem s _ j h

theorem ctrText_getElem (c : Cipher) (s : State) {j : Nat} (h : j < (ctrText c s).length) :
    (ctrText c s)[j] = inByte s j ^^^ blockByte (blockEnc c s.key (ctrBlock s (j / 16))) (j % 16) := by
  simp only [ctrText, List.getElem_zipWith, message_getElem, keystream_getElem]

/-- The same keystream twice gives the message back. -/
theorem ctrText_of_ctrText {c : Cipher} {s t : State} (h : message t = ctrText c s) (hkey : t.key = s.key)
    (hblock : ∀ i, ctrBlock t i = ctrBlock s i) : ctrText c t = message s := by
  have length : (ctrText c t).length = (message s).length := by
    rw [ctrText_length, ← message_length t, h, ctrText_length, message_length]
  refine List.ext_getElem length fun j ht hs => ?_
  have received : inByte t j = (ctrText c s)[j]'(by rwa [ctrText_length, ← message_length]) := by
    simp only [← h, message_getElem]
  rw [ctrText_getElem, received, ctrText_getElem, hkey, hblock, BitVec.xor_assoc, BitVec.xor_self, BitVec.xor_zero,
    message_getElem]

/-! ### What the mode commands answer with full operands (46_modes.md R254 to R258, R263) -/

section
variable {s : State} {c : Cipher} (hc : ctrlCipher s = some c) (hkey : operandFull s .key)
include hc hkey

theorem execEcbenc_full : exec .ecbenc s = if EncLengthOk s then
    .next (completeOk (modeResult s c (bytesOf ((wholeBlocks (padMessage s)).map (blockEnc c s.key))) s.chain s.ctrcur))
    else .next (failed s .invalidBlockLength) := by
  rw [exec, execEcbenc, ecbEncBody, hc]
  simp only [need_full hkey, guarded_none, guarded_encLength]
  exact finish_ite s _ _ _

theorem execEcbdec_full : exec .ecbdec s = if DecLengthOk s then
    finish s (decResult c s (bytesOf ((wholeBlocks (message s)).map (blockDec c s.key))) s.chain)
    else .next (failed s .invalidBlockLength) := by
  rw [exec, execEcbdec, ecbDecBody, hc]
  simp only [need_full hkey, guarded_none, guarded_decLength]
  by_cases h : DecLengthOk s
  · rw [if_pos h, if_pos h]
  · rw [if_neg h, if_neg h, ← finish_error_eq_failed]

theorem execCbcenc_full (hiv : operandFull s .iv) : exec .cbcenc s = if EncLengthOk s then
    .next (completeOk (modeResult s c (bytesOf (chainedBlocks c s (padMessage s)))
      (lastBlock s.iv (chainedBlocks c s (padMessage s))) s.ctrcur))
    else .next (failed s .invalidBlockLength) := by
  rw [exec, execCbcenc, cbcEncBody, hc]
  simp only [need_full hkey, need_full hiv, guarded_none, guarded_encLength]
  exact finish_ite s _ _ _

theorem execCbcenct_full (hiv : operandFull s .iv) : exec .cbcenct s = if s.len.toNat ≤ s.cfg.msgbufBytes then
    .next (completeOk (modeResult s c ((bytesOf (truncBlocks c s)).take s.len.toNat)
      (lastBlock s.iv (truncBlocks c s)) s.ctrcur))
    else .next (failed s .invalidBlockLength) := by
  rw [exec, execCbcenct, cbcEncTruncBody, hc]
  simp only [need_full hkey, need_full hiv, guarded_none, guarded_needLen]
  exact finish_ite s _ _ _

theorem execCbcdec_full (hiv : operandFull s .iv) : exec .cbcdec s = if DecLengthOk s then
    finish s (decResult c s (bytesOf (cbcDecBlocks (blockDec c s.key) s.iv (wholeBlocks (message s))))
      (lastBlock s.iv (wholeBlocks (message s))))
    else .next (failed s .invalidBlockLength) := by
  rw [exec, execCbcdec, cbcDecBody, hc]
  simp only [need_full hkey, need_full hiv, guarded_none, guarded_decLength]
  by_cases h : DecLengthOk s
  · rw [if_pos h, if_pos h]
  · rw [if_neg h, if_neg h, ← finish_error_eq_failed]

theorem execCtrx_full (hnonce : operandFull s .nonce) (hctr : operandFull s .ctr0) :
    exec .ctrx s = if s.len.toNat ≤ s.cfg.msgbufBytes then
      .next (completeOk (modeResult s c (ctrText c s) s.chain (halfOfBits (ctrValue s ((s.len.toNat + 15) / 16)))))
      else .next (failed s .invalidBlockLength) := by
  rw [exec, execCtrx, ctrBody, hc]
  simp only [need_full hkey, need_full hnonce, need_full hctr, guarded_none, guarded_needLen]
  exact finish_ite s _ _ _

end

/-- ECBDEC on the ciphertext of whole blocks. -/
theorem execEcbdec_ciphertext {s : State} {c : Cipher} {l : List Byte} (ok : DecLengthOk s)
    (h : message s = bytesOf ((wholeBlocks l).map (blockEnc c s.key))) (hl : l.length % 16 = 0)
    (hc : ctrlCipher s = some c) (hkey : operandFull s .key) :
    exec .ecbdec s = finish s (decResult c s l s.chain) := by
  rw [execEcbdec_full hc hkey, if_pos ok, h, wholeBlocks_bytesOf, List.map_map,
    (blockDec_blockEnc c s.key).comp_eq_id, List.map_id, bytesOf_wholeBlocks hl]

/-- CBCDEC on the ciphertext of whole blocks under the same IV. -/
theorem execCbcdec_ciphertext {s : State} {c : Cipher} {l : List Byte} (ok : DecLengthOk s)
    (h : message s = bytesOf (chainedBlocks c s l)) (hl : l.length % 16 = 0)
    (hc : ctrlCipher s = some c) (hkey : operandFull s .key) (hiv : operandFull s .iv) :
    exec .cbcdec s = finish s (decResult c s l (lastBlock s.iv (chainedBlocks c s l))) := by
  rw [execCbcdec_full hc hkey hiv, if_pos ok, h, wholeBlocks_bytesOf, chainedBlocks,
    cbcDecBlocks_cbcEncBlocks (blockDec_blockEnc c s.key), bytesOf_wholeBlocks hl]

/-! ### The output of a completed mode command -/

theorem modeResult_outLen_eq_len {s : State} {c : Cipher} {l : List Byte} {chain : Block} {ctrcur : Half}
    (h : l.length = s.len.toNat) : (completeOk (modeResult s c l chain ctrcur)).outLen = s.len :=
  BitVec.eq_of_toNat_eq ((modeResult_outLen s c l chain ctrcur (by omega)).trans h)

/-- OUT_LEN and the output of an encrypting command whose length checks passed, `bs` its blocks. -/
theorem encResult_output {s : State} (hlegal : s.cfg.legal) (ok : EncLengthOk s) (c : Cipher) {bs : List Block}
    (hbs : bs.length = (padMessage s).length / 16) (chain : Block) (ctrcur : Half) :
    (completeOk (modeResult s c (bytesOf bs) chain ctrcur)).outLen.toNat = s.len.toNat + padCount s ∧
      s.len.toNat + padCount s = (padMessage s).length ∧
      output (completeOk (modeResult s c (bytesOf bs) chain ctrcur)) = bytesOf bs := by
  obtain ⟨_, _, hbytes, _⟩ := hlegal
  have padded : (padMessage s).length = s.len.toNat + padCount s := padMessage_length s
  have count : padCount s ≤ 16 := by unfold padCount; split <;> omega
  have whole := padMessage_length_mod ok
  have fits := ok.1
  have length : (bytesOf bs).length = s.len.toNat + padCount s := by rw [bytesOf_length]; omega
  exact ⟨(modeResult_outLen s c _ chain ctrcur (by omega)).trans length, padded.symm,
    modeResult_output s c _ chain ctrcur (by omega)⟩

/-- How many of the bytes `plain` a decrypting command strips. -/
def stripCount (s : State) (plain : List Byte) : Nat :=
  if ctrlPad s then (plain.getD (plain.length - 1) 0).toNat else 0

/-- The two completions of a decrypting command whose length checks passed. -/
theorem decResult_completes {i : Instr} {s : State} {c : Cipher} {plain : List Byte} {chain : Block}
    (hexec : exec i s = finish s (decResult c s plain chain)) (hlen : plain.length = s.len.toNat) :
    (s.len.toNat < stripCount s plain → exec i s = .next (failed s .invalidBlockLength)) ∧
      (stripCount s plain ≤ s.len.toNat → ∃ t : State, exec i s = .next t ∧
        t.outLen.toNat = s.len.toNat - stripCount s plain ∧
        output t = plain.take (s.len.toNat - stripCount s plain) ∧
        t.chain = chain ∧ t.ctrcur = s.ctrcur ∧ modeFrame c s t) := by
  rw [hexec, decResult_strip s c plain chain (stripCount s plain) rfl, hlen]
  refine ⟨fun h => by rw [if_pos h, finish_error_eq_failed], fun h => ?_⟩
  have length : (plain.take (s.len.toNat - stripCount s plain)).length = s.len.toNat - stripCount s plain := by
    rw [List.length_take]; omega
  rw [if_neg (by omega), finish_ok]
  exact ⟨_, rfl, (modeResult_outLen _ _ _ _ _ (by omega)).trans length, modeResult_output _ _ _ _ _ (by omega),
    rfl, rfl, modeResult_frame _ _ _ _ _⟩

/-! ### The output as the next message (40_control.md R142) -/

/-- `t` has the parameters, CTRL and the operands of `s`: all that a mode command reads but its message. -/
structure SameOperands (s t : State) : Prop where
  cfg : t.cfg = s.cfg
  ctrl : t.ctrl = s.ctrl
  key : t.key = s.key
  iv : t.iv = s.iv
  nonce : t.nonce = s.nonce
  ctr0 : t.ctr0 = s.ctr0
  full : ∀ x, operandFull s x → operandFull t x

theorem SameOperands.ctrlCipher {s t : State} (h : SameOperands s t) : ctrlCipher t = ctrlCipher s := by
  unfold Machine.ctrlCipher
  rw [h.ctrl]

theorem SameOperands.ctrBlock {s t : State} (h : SameOperands s t) (i : Nat) : ctrBlock t i = ctrBlock s i := by
  unfold Machine.ctrBlock ctrValue ctrlCtrLe
  rw [h.ctrl, h.ctr0, h.nonce]

theorem SameOperands.trans {s t u : State} (h : SameOperands s t) (h' : SameOperands t u) : SameOperands s u where
  cfg := h'.cfg.trans h.cfg
  ctrl := h'.ctrl.trans h.ctrl
  key := h'.key.trans h.key
  iv := h'.iv.trans h.iv
  nonce := h'.nonce.trans h.nonce
  ctr0 := h'.ctr0.trans h.ctr0
  full x hx := h'.full x (h.full x hx)

theorem modeResult_sameOperands (s : State) (c : Cipher) (l : List Byte) (chain : Block) (ctrcur : Half) :
    SameOperands s (completeOk (modeResult s c l chain ctrcur)) :=
  ⟨rfl, rfl, rfl, rfl, rfl, rfl, fun x hx => by cases x <;> exact hx⟩

/-- XFER makes the output the message of the next command, and leaves what else that command reads. -/
theorem execXfer_message {t : State} (h : t.outLen.toNat ≤ t.cfg.msgbufBytes) :
    ∃ u : State, exec .xfer t = .next u ∧ SameOperands t u ∧ message u = output t ∧
      u.errcode = t.errcode := by
  refine ⟨_, execXfer_fits h, ⟨rfl, rfl, rfl, rfl, rfl, rfl, fun x hx => by cases x <;> exact hx⟩, ?_, rfl⟩
  refine List.map_congr_left fun a ha => ?_
  exact (inByte_writeIn_readOut _ _ a).trans (if_pos (List.mem_range.1 ha))

/-- A mode command, XFER and the mode command that gives the message back. -/
theorem roundTrip {i j : Instr} {s : State} {c : Cipher} {l : List Byte} {chain : Block} {ctrcur : Half}
    (hlegal : s.cfg.legal) (hfits : l.length ≤ s.cfg.msgbufBytes)
    (there : exec i s = .next (completeOk (modeResult s c l chain ctrcur)))
    (back : ∀ t, SameOperands s t → message t = l → ∃ chain' ctrcur',
      exec j t = .next (completeOk (modeResult t c (message s) chain' ctrcur'))) :
    ∃ t : State, execAll [i, .xfer, j] s = some t ∧ t.outLen = s.len ∧ t.errcode = s.errcode ∧
      ∀ a, a < s.len.toNat → outByte t a = inByte s a := by
  obtain ⟨_, _, hbytes, _⟩ := hlegal
  have short : l.length < 65536 := by omega
  obtain ⟨t, xfer, same, received, errcode⟩ := execXfer_message (t := completeOk (modeResult s c l chain ctrcur))
    ((modeResult_outLen s c l chain ctrcur short).trans_le hfits)
  obtain ⟨chain', ctrcur', back⟩ := back t ((modeResult_sameOperands s c l chain ctrcur).trans same)
    (received.trans (modeResult_output s c l chain ctrcur short))
  have length : (message s).length = s.len.toNat := message_length s
  refine ⟨completeOk (modeResult t c (message s) chain' ctrcur'), ?_, ?_, errcode, fun a ha => ?_⟩
  · rw [execAll_cons _ there, execAll_cons _ xfer, execAll_cons _ back, execAll]
  · exact BitVec.eq_of_toNat_eq ((modeResult_outLen t c _ chain' ctrcur' (by omega)).trans length)
  · rw [modeResult_outByte _ _ _ _ _ a (by rwa [length]), message_getElem]

/-- The lengths of the round trips: the padded message fits MSG_IN. -/
theorem roundTrip_lengths {s : State} (hlegal : s.cfg.legal)
    (h : if ctrlPad s then s.len.toNat < s.cfg.msgbufBytes
      else s.len.toNat ≤ s.cfg.msgbufBytes ∧ s.len.toNat % 16 = 0) :
    EncLengthOk s ∧ (padMessage s).length ≤ s.cfg.msgbufBytes := by
  obtain ⟨haligned, _⟩ := hlegal
  rw [padMessage_length]
  split at h
  next hpad => rw [if_pos hpad]; exact ⟨⟨h.le, .inl hpad⟩, by omega⟩
  next hpad => rw [if_neg hpad]; exact ⟨⟨h.1, .inr h.2⟩, h.1⟩

/-- A padded message that fits is as long as a ciphertext the decrypting commands accept. -/
theorem decLengthOk_of_padMessage {s t : State} (same : SameOperands s t) (ok : EncLengthOk s)
    (hfits : (padMessage s).length ≤ s.cfg.msgbufBytes) (hlen : t.len.toNat = (padMessage s).length) :
    DecLengthOk t := by
  rw [DecLengthOk, same.cfg, hlen]
  refine ⟨hfits, padMessage_length_mod ok, fun hpad => ?_⟩
  rw [ctrlPad, same.ctrl, ← ctrlPad] at hpad
  rw [padMessage_length, if_pos hpad]
  omega

/-- A decrypting command whose plaintext is a padded message answers that message. -/
theorem finish_decResult_padMessage {s t : State} (h : t.ctrl = s.ctrl) (c : Cipher) (chain : Block) :
    finish t (decResult c t (padMessage s) chain) =
      .next (completeOk (modeResult t c (message s) chain t.ctrcur)) := by
  rw [decResult, stripMessage_padMessage h]
  rfl

/-- A round trip whose second command recovers the padded message: the strip takes the padding off again. -/
theorem paddedRoundTrip {i j : Instr} {s : State} {c : Cipher} {bs : List Block} {chain : Block} {ctrcur : Half}
    (hlegal : s.cfg.legal) (ok : EncLengthOk s) (hfits : (padMessage s).length ≤ s.cfg.msgbufBytes)
    (hbs : bs.length = (padMessage s).length / 16)
    (there : exec i s = .next (completeOk (modeResult s c (bytesOf bs) chain ctrcur)))
    (back : ∀ t, SameOperands s t → DecLengthOk t → message t = bytesOf bs →
      ∃ chain', exec j t = finish t (decResult c t (padMessage s) chain')) :
    ∃ t : State, execAll [i, .xfer, j] s = some t ∧ t.outLen = s.len ∧ t.errcode = s.errcode ∧
      ∀ a, a < s.len.toNat → outByte t a = inByte s a := by
  have whole := padMessage_length_mod ok
  have length : (bytesOf bs).length = (padMessage s).length := by rw [bytesOf_length]; omega
  refine roundTrip hlegal (length.trans_le hfits) there fun t same received => ?_
  have len : t.len.toNat = (padMessage s).length := by rw [← message_length, received, length]
  obtain ⟨chain', answer⟩ := back t same (decLengthOk_of_padMessage same ok hfits len) received
  exact ⟨chain', _, answer.trans (finish_decResult_padMessage same.ctrl c chain')⟩

end Sys2Proof.Machine

namespace Sys2Proof.Proofs

open Sys2Proof.Machine Sys2Proof.Safety

/-! ### The obligations on the chaining modes -/

/-- Settles O45: with full operands the length checks decide, and the output is the padded message block by block. -/
theorem ecbencEncryptsEachBlock : Obligations.EcbencEncryptsEachBlock := by
  unfold Obligations.EcbencEncryptsEachBlock
  refine ⟨fun s => ⟨(ctrlCipher_eq_some_iff s).1, (ctrlCipher_eq_some_iff s).2, rfl⟩, fun _ _ => ⟨rfl, rfl⟩, ?_⟩
  intro s c hlegal hc hkey
  have exec_eq := execEcbenc_full hc hkey
  refine ⟨fun h => exec_eq.trans (if_neg (not_encLengthOk_of_long h)),
    fun hpad h => exec_eq.trans (if_neg (not_encLengthOk_of_unaligned hpad h)), fun hfits hpad => ?_⟩
  obtain ⟨outLen, length, output⟩ := encResult_output hlegal ⟨hfits, hpad⟩ c
    (bs := (wholeBlocks (padMessage s)).map (blockEnc c s.key)) (by simp) s.chain s.ctrcur
  refine ⟨_, _, _, exec_eq.trans (if_pos ⟨hfits, hpad⟩), rfl, padMessage_eq s, outLen, fun i hi => ?_, rfl, rfl,
    modeResult_frame _ _ _ _ _⟩
  rw [output]
  exact blockAt_bytesOf_map _ _ (by omega)

/-- Settles O46: the length checks decide, then the strip by the last byte of the plaintext. -/
theorem ecbdecDecryptsEachBlock : Obligations.EcbdecDecryptsEachBlock := by
  unfold Obligations.EcbdecDecryptsEachBlock
  refine ⟨fun _ _ => ⟨rfl, rfl⟩, fun s c _ hc hkey => ⟨?_, ?_, ?_⟩⟩
  · rw [← (ctrlCipher_eq_some_iff s).1, hc, Option.some_inj]
  · rw [← (ctrlCipher_eq_some_iff s).2, hc, Option.some_inj]
  have exec_eq := execEcbdec_full hc hkey
  refine ⟨fun h => exec_eq.trans (if_neg (not_decLengthOk_of_long h)),
    fun h => exec_eq.trans (if_neg (not_decLengthOk_of_unaligned h)),
    fun hpad h => exec_eq.trans (if_neg (not_decLengthOk_of_empty hpad h)), fun hfits hblocks hpad => ?_⟩
  have length : (bytesOf ((wholeBlocks (message s)).map (blockDec c s.key))).length = s.len.toNat := by
    rw [bytesOf_length, List.length_map, wholeBlocks_length, message_length]; omega
  refine ⟨_, _, length, fun i hi => blockAt_bytesOf_map _ _ (by rwa [message_length]), ?_,
    decResult_completes (exec_eq.trans (if_pos ⟨hfits, hblocks, hpad⟩)) length⟩
  rw [stripCount, length]

/-- Settles O47: the length checks decide, and each output block is chained to the one before it. -/
theorem cbcencChainsBlocks : Obligations.CbcencChainsBlocks := by
  unfold Obligations.CbcencChainsBlocks
  intro s c hlegal hc hkey hiv
  have exec_eq := execCbcenc_full hc hkey hiv
  refine ⟨fun h => exec_eq.trans (if_neg (not_encLengthOk_of_long h)),
    fun hpad h => exec_eq.trans (if_neg (not_encLengthOk_of_unaligned hpad h)), fun hfits hpad => ?_⟩
  obtain ⟨outLen, length, output⟩ := encResult_output hlegal ⟨hfits, hpad⟩ c (chainedBlocks_length c s (padMessage s))
    (lastBlock s.iv (chainedBlocks c s (padMessage s))) s.ctrcur
  have whole := padMessage_length_mod ⟨hfits, hpad⟩
  refine ⟨_, _, _, exec_eq.trans (if_pos ⟨hfits, hpad⟩), rfl, padMessage_eq s, outLen, fun i hi => ?_, ?_, rfl,
    modeResult_frame _ _ _ _ _⟩
  · rw [output]
    exact blockAt_chainedBlocks c s _ (by omega)
  · rw [output, outLen, length]
    exact (lastBlock_chainedBlocks c s _).trans (if_congr (by omega) rfl rfl)

/-- Settles O48: the chain runs over the whole padded message, of which LEN bytes are kept. -/
theorem cbcenctTruncates : Obligations.CbcenctTruncates := by
  unfold Obligations.CbcenctTruncates
  intro s c _ hc hkey hiv
  have exec_eq := execCbcenct_full hc hkey hiv
  refine ⟨fun h => exec_eq.trans (if_neg (not_le.2 h)), fun hfits => ?_⟩
  have blocks := truncPadded_message_blocks s.cfg.truncPad s
  have length := take_truncBlocks_length c s
  refine ⟨_, _, _, blockAt (bytesOf (truncBlocks c s)), _, exec_eq.trans (if_pos hfits), rfl, rfl,
    truncPadded_message _ s, fun i hi => ?_, modeResult_outLen_eq_len length, fun j hj => ?_, ?_, rfl,
    modeResult_frame _ _ _ _ _⟩
  · exact blockAt_chainedBlocks c s _ (by omega)
  · rw [modeResult_outByte _ _ _ _ _ j (by omega), List.getElem_take, getElem_bytesOf, blockAt_bytesOf]
  · rw [← blocks]
    exact lastBlock_chainedBlocks c s _

/-- Settles O49: as ECBDEC, and each plaintext block is unchained from the ciphertext block before it. -/
theorem cbcdecUnchainsBlocks : Obligations.CbcdecUnchainsBlocks := by
  unfold Obligations.CbcdecUnchainsBlocks
  intro s c _ hc hkey hiv
  have exec_eq := execCbcdec_full hc hkey hiv
  refine ⟨fun h => exec_eq.trans (if_neg (not_decLengthOk_of_long h)),
    fun h => exec_eq.trans (if_neg (not_decLengthOk_of_unaligned h)),
    fun hpad h => exec_eq.trans (if_neg (not_decLengthOk_of_empty hpad h)), fun hfits hblocks hpad => ?_⟩
  have length : (bytesOf (cbcDecBlocks (blockDec c s.key) s.iv (wholeBlocks (message s)))).length = s.len.toNat := by
    rw [bytesOf_length, cbcDecBlocks_length, wholeBlocks_length, message_length]; omega
  have chain : lastBlock s.iv (wholeBlocks (message s)) = if s.len.toNat = 0 then s.iv
      else blockAt (readIn s s.len.toNat) (s.len.toNat / 16 - 1) := by
    rw [lastBlock_wholeBlocks, message_length]
    exact if_congr (by omega) rfl rfl
  rw [← chain]
  refine ⟨_, _, length, fun i hi => blockAt_cbcDecBlocks _ _ _ (by rwa [message_length]), ?_,
    decResult_completes (exec_eq.trans (if_pos ⟨hfits, hblocks, hpad⟩)) length⟩
  rw [stripCount, length]

/-- Settles O50: the length check decides, and the keystream is read byte by byte through its counter blocks. -/
theorem ctrxXorsTheKeystream : Obligations.CtrxXorsTheKeystream := by
  unfold Obligations.CtrxXorsTheKeystream
  intro s c _ hc hkey hnonce hctr
  have exec_eq := execCtrx_full hc hkey hnonce hctr
  refine ⟨fun h => exec_eq.trans (if_neg (not_le.2 h)), fun hfits => ?_⟩
  refine ⟨ctrBlock s, _, exec_eq.trans (if_pos hfits), modeResult_outLen_eq_len (ctrText_length c s),
    fun i k hk => ⟨ctrBlock_nonce s i hk, ctrBlock_counter s i hk⟩, fun j hj => ?_, halfToBits_halfOfBits _, rfl,
    modeResult_frame _ _ _ _ _⟩
  rw [modeResult_outByte _ _ _ _ _ j (by rwa [ctrText_length]), ctrText_getElem]

/-- Settles O51: ECBDEC takes back the blocks of the padded message, then the padding. -/
theorem ecbRoundTrip : Obligations.EcbRoundTrip := by
  unfold Obligations.EcbRoundTrip
  intro s c hlegal hc hkey hlen
  obtain ⟨ok, hfits⟩ := roundTrip_lengths hlegal hlen
  refine paddedRoundTrip hlegal ok hfits (by simp) ((execEcbenc_full hc hkey).trans (if_pos ok))
    fun t same ok' received => ?_
  rw [← same.key] at received
  exact ⟨_, execEcbdec_ciphertext ok' received (padMessage_length_mod ok) (same.ctrlCipher.trans hc)
    (same.full _ hkey)⟩

/-- Settles O52: CBCDEC unchains with the IV that CBCENC chained from, then strips the padding. -/
theorem cbcRoundTrip : Obligations.CbcRoundTrip := by
  unfold Obligations.CbcRoundTrip
  intro s c hlegal hc hkey hiv hlen
  obtain ⟨ok, hfits⟩ := roundTrip_lengths hlegal hlen
  refine paddedRoundTrip hlegal ok hfits (chainedBlocks_length c s _)
    ((execCbcenc_full hc hkey hiv).trans (if_pos ok)) fun t same ok' received => ?_
  rw [chainedBlocks, ← same.key, ← same.iv, ← chainedBlocks] at received
  exact ⟨_, execCbcdec_ciphertext ok' received (padMessage_length_mod ok) (same.ctrlCipher.trans hc)
    (same.full _ hkey) (same.full _ hiv)⟩

/-- Settles O53: both CTRX use one keystream, which cancels itself. -/
theorem ctrInvolution : Obligations.CtrInvolution := by
  unfold Obligations.CtrInvolution
  intro s c hlegal hc hkey hnonce hctr hfits
  have length := ctrText_length c s
  refine roundTrip hlegal (length.trans_le hfits) ((execCtrx_full hc hkey hnonce hctr).trans (if_pos hfits))
    fun t same received => ?_
  have len : t.len.toNat ≤ t.cfg.msgbufBytes := by rwa [← message_length, received, length, same.cfg]
  have back := execCtrx_full (same.ctrlCipher.trans hc) (same.full _ hkey) (same.full _ hnonce) (same.full _ hctr)
  rw [if_pos len, ctrText_of_ctrText received same.key same.ctrBlock] at back
  exact ⟨_, _, back⟩

end Sys2Proof.Proofs
end

section
/-! PROOF. The mode router (47_router.md): the lookups in edge order, the resolution of a role, what ROUTE writes, and
RUN as the command it dispatches to. -/

namespace Sys2Proof.Machine

open Sys2Proof.Safety

/-! ### The lookups in edge order (47_router.md R291, R292) -/

theorem firstEdge_eq_some_iff (s : State) (p : Nat → Bool) (j : Nat) :
    firstEdge s p = some j ↔ j < s.cfg.nEdges ∧ p j = true ∧ ∀ j', j' < j → ¬ p j' = true := by
  simp only [firstEdge, List.find?_range_eq_some, List.mem_range, Bool.not_eq_true', Bool.not_eq_true,
    and_left_comm]

theorem honored_eq_some_iff (s : State) (n p j : Nat) :
    honored s n p = some j ↔
      j < s.cfg.nEdges ∧ validEdge s j = true ∧ edgeDst s j = n ∧ edgeDport s j = p ∧
        ∀ j', j' < j → ¬ (validEdge s j' = true ∧ edgeDst s j' = n ∧ edgeDport s j' = p) := by
  simp only [honored, firstEdge_eq_some_iff, Bool.and_eq_true, beq_iff_eq, and_assoc]

theorem honored_port_iff (s : State) (n j : Nat) :
    (List.range 7).any (fun q => honored s n q == some j) = true ↔ ∃ q, q ≤ 6 ∧ honored s n q = some j := by
  simp only [List.any_eq_true, List.mem_range, beq_iff_eq, Nat.lt_succ_iff]

/-- An edge that `first_in_kind` takes is honored, so its index needs no bound of its own. -/
theorem firstInKind_eq_some_iff (s : State) (n : Nat) (ks : List NodeKind) (c m : Nat) :
    firstInKind s n ks c = some m ↔
      ∃ j, edgeSrc s j = m ∧ (∃ q, q ≤ 6 ∧ honored s n q = some j) ∧ kindIn s m ks = true ∧ m ≠ c ∧
        ∀ j', j' < j → ¬ ((∃ q, q ≤ 6 ∧ honored s n q = some j') ∧
          kindIn s (edgeSrc s j') ks = true ∧ edgeSrc s j' ≠ c) := by
  simp only [firstInKind, Option.map_eq_some_iff, firstEdge_eq_some_iff, Bool.and_eq_true, honored_port_iff,
    bne_iff_ne, and_assoc]
  refine exists_congr fun j => ⟨?_, ?_⟩
  · rintro ⟨-, hport, hkind, hne, hfirst, rfl⟩
    exact ⟨rfl, hport, hkind, hne, hfirst⟩
  · rintro ⟨rfl, ⟨q, hq, hj⟩, hkind, hne, hfirst⟩
    exact ⟨((honored_eq_some_iff s n q j).1 hj).1, ⟨q, hq, hj⟩, hkind, hne, hfirst, rfl⟩

theorem firstOutKind_eq_some_iff (s : State) (c : Nat) (ks : List NodeKind) (m : Nat) :
    firstOutKind s c ks = some m ↔
      ∃ j, j < s.cfg.nEdges ∧ edgeDst s j = m ∧ validEdge s j = true ∧ edgeSrc s j = c ∧
        edgeSport s j = 0 ∧ kindIn s m ks = true ∧ m ≠ c ∧
        ∀ j', j' < j → ¬ (validEdge s j' = true ∧ edgeSrc s j' = c ∧ edgeSport s j' = 0 ∧
          kindIn s (edgeDst s j') ks = true ∧ edgeDst s j' ≠ c) := by
  simp only [firstOutKind, Option.map_eq_some_iff, firstEdge_eq_some_iff, Bool.and_eq_true, beq_iff_eq,
    bne_iff_ne, and_assoc]
  refine exists_congr fun j => ⟨?_, ?_⟩
  · rintro ⟨hj, hvalid, hsrc, hport, hkind, hne, hfirst, rfl⟩
    exact ⟨hj, rfl, hvalid, hsrc, hport, hkind, hne, hfirst⟩
  · rintro ⟨hj, rfl, hvalid, hsrc, hport, hkind, hne, hfirst⟩
    exact ⟨hj, hvalid, hsrc, hport, hkind, hne, hfirst, rfl⟩

/-! ### Resolution of a role (47_router.md R293, R294) -/

theorem kindIn_singleton (s : State) (n : Nat) (k : NodeKind) : kindIn s n [k] = true ↔ nodeKind s n = some k := by
  rw [kindIn_iff]
  simp

theorem combineXor_not_mem_roleKinds (role : Role) : .combineXor ∉ roleKinds role := by
  cases role <;> decide

theorem resolve_direct {s : State} {c p : Nat} {role : Role} (hp : firstIn s c (rolePort role) = some p) (hne : p ≠ c)
    (hkind : kindIn s p (roleKinds role) = true) : resolve s c role = some (p, none) := by
  rw [resolve, hp]
  exact if_pos ⟨hne, hkind⟩

theorem resolve_eq_resolveHop {s : State} {c : Nat} {role : Role}
    (h : ∀ p, firstIn s c (rolePort role) = some p → ¬ (p ≠ c ∧ kindIn s p (roleKinds role) = true)) :
    resolve s c role = resolveHop s c role := by
  unfold resolve
  split
  next p hp => exact if_neg (h p hp)
  next => rfl

theorem resolveHop_of_hopNode {s : State} {c m : Nat} {role : Role} (h : hopNode s c role = some m) :
    resolveHop s c role = (firstInKind s m (roleKinds role) c).map (fun t => (t, some m)) := by
  rw [resolveHop, h]

theorem hopNode_eq_xorHop {s : State} {c : Nat} {role : Role}
    (h : ∀ p, firstIn s c (rolePort role) = some p → nodeKind s p ≠ some .combineXor) :
    hopNode s c role = hopNode.xorHop s c := by
  unfold hopNode
  split
  next p hp => exact if_neg (h p hp)
  next => rfl

theorem xorHop_of_combine {s : State} {c m : Nat} (hm : firstIn s c 6 = some m)
    (hkind : nodeKind s m = some .combineXor) : hopNode.xorHop s c = some m := by
  rw [hopNode.xorHop, hm]
  exact if_pos hkind

theorem xorHop_eq_none {s : State} {c : Nat} (h : ∀ m, firstIn s c 6 = some m → nodeKind s m ≠ some .combineXor) :
    hopNode.xorHop s c = none := by
  unfold hopNode.xorHop
  split
  next m hm => exact if_neg (h m hm)
  next => rfl

/-- A source of a kind of the role on the role's own port: it is no cipher node, so not the one being resolved. -/
theorem resolve_source {s : State} {c p : Nat} {role : Role} {k : NodeKind}
    (hcipher : nodeKind s c = some .cipherBlock) (hp : firstIn s c (rolePort role) = some p)
    (hkind : nodeKind s p = some k) (hk : k ∈ roleKinds role) (hsource : k ≠ .cipherBlock) :
    resolve s c role = some (p, none) := by
  refine resolve_direct hp ?_ ((kindIn_iff s p _).2 ⟨k, hk, hkind⟩)
  rintro rfl
  exact hsource (Option.some_inj.1 (hkind.symm.trans hcipher))

/-- The combine node on the role's own port. -/
theorem resolve_through_port {s : State} {c m : Nat} {role : Role} (hm : firstIn s c (rolePort role) = some m)
    (hkind : nodeKind s m = some .combineXor) :
    resolve s c role = (firstInKind s m (roleKinds role) c).map (fun t => (t, some m)) := by
  have indirect : ∀ p, firstIn s c (rolePort role) = some p →
      ¬ (p ≠ c ∧ kindIn s p (roleKinds role) = true) := by
    rintro p hp ⟨-, hrole⟩
    obtain rfl : m = p := Option.some_inj.1 (hm.symm.trans hp)
    obtain ⟨k, hk, hrole⟩ := (kindIn_iff s m _).1 hrole
    obtain rfl : NodeKind.combineXor = k := Option.some_inj.1 (hkind.symm.trans hrole)
    exact combineXor_not_mem_roleKinds role hk
  have hop : hopNode s c role = some m := by
    rw [hopNode, hm]
    exact if_pos hkind
  rw [resolve_eq_resolveHop indirect, resolveHop_of_hopNode hop]

section
variable {s : State} {c : Nat} {role : Role}
  (hport : ∀ p, firstIn s c (rolePort role) = some p →
    nodeKind s p ≠ some .combineXor ∧ ¬ (p ≠ c ∧ kindIn s p (roleKinds role) = true))
include hport

/-- The combine node on the `xor` port, where the role's own port gives nothing. -/
theorem resolve_through_xor {m : Nat} (hm : firstIn s c 6 = some m) (hkind : nodeKind s m = some .combineXor) :
    resolve s c role = (firstInKind s m (roleKinds role) c).map (fun t => (t, some m)) := by
  rw [resolve_eq_resolveHop fun p hp => (hport p hp).2]
  exact resolveHop_of_hopNode
    ((hopNode_eq_xorHop fun p hp => (hport p hp).1).trans (xorHop_of_combine hm hkind))

theorem resolve_eq_none (h : ∀ m, firstIn s c 6 = some m → nodeKind s m ≠ some .combineXor) :
    resolve s c role = none := by
  rw [resolve_eq_resolveHop fun p hp => (hport p hp).2, resolveHop,
    (hopNode_eq_xorHop fun p hp => (hport p hp).1).trans (xorHop_eq_none h)]

end

/-- The rows of 47_router.md R293. -/
theorem role_row {role : Role} {q : Nat} {ks : List NodeKind}
    (h : (role, q, ks) ∈ [(Role.pt, 1, [NodeKind.plaintextSource]), (.key, 2, [.keySource]),
      (.chain, 3, [.ivSource, .cipherBlock]), (.ctr, 4, [.counterSource])]) :
    q = rolePort role ∧ ks = roleKinds role := by
  simp only [List.mem_cons, List.not_mem_nil, or_false, Prod.mk.injEq] at h
  rcases h with ⟨rfl, rfl, rfl⟩ | ⟨rfl, rfl, rfl⟩ | ⟨rfl, rfl, rfl⟩ | ⟨rfl, rfl, rfl⟩ <;> exact ⟨rfl, rfl⟩

/-! ### The producers a mode requires (47_router.md R295) -/

theorem roleProducer_eq_resolve {mode : Mode} {role : Role} (h : ¬ (mode = .ctr ∧ role = .pt)) (s : State) (c : Nat) :
    roleProducer s mode c role = resolve s c role := if_neg h

theorem roleProducer_ctr_pt (s : State) (c : Nat) :
    roleProducer s .ctr c .pt =
      (firstOutKind s c [.combineXor]).bind
        (fun d => (firstInKind s d [.plaintextSource] c).map (fun t => (t, none))) := by
  unfold roleProducer downNode
  cases firstOutKind s c [.combineXor] <;> rfl

theorem roleProducer_ctr_pt_eq_some_iff (s : State) (c p : Nat) (m : Option Nat) :
    roleProducer s .ctr c .pt = some (p, m) ↔
      m = none ∧ ∃ d, firstOutKind s c [.combineXor] = some d ∧ firstInKind s d [.plaintextSource] c = some p := by
  simp only [roleProducer_ctr_pt, Option.bind_eq_some_iff, Option.map_eq_some_iff, Prod.mk.injEq]
  constructor
  · rintro ⟨d, hd, t, ht, rfl, rfl⟩
    exact ⟨rfl, d, hd, ht⟩
  · rintro ⟨rfl, d, hd, hp⟩
    exact ⟨d, hd, p, hp, rfl, rfl⟩

/-! ### What ROUTE answers (47_router.md R296, R297, R299) -/

theorem routeNodeOk_iff (s : State) :
    routeNodeOk s = true ↔
      validNode s s.routeNode.toNat = true ∧ nodeKind s s.routeNode.toNat = some .cipherBlock := by
  rw [routeNodeOk, Bool.and_eq_true, kindIn_singleton]

theorem routeOk_iff (s : State) (mode : Mode) :
    routeOk s mode = true ↔
      validNode s s.routeNode.toNat = true ∧ nodeKind s s.routeNode.toNat = some .cipherBlock ∧
        ∀ role ∈ modeRoles mode, roleProducer s mode s.routeNode.toNat role ≠ none := by
  simp only [routeOk, Bool.and_eq_true, routeNodeOk_iff, List.all_eq_true, Option.isSome_iff_ne_none, and_assoc]

theorem exec_route {s : State} {mode : Mode} (hm : ctrlMode s = some mode) :
    exec .route s = .next (if routeOk s mode then completeOk (routed s mode)
      else failed (routed s mode) .missingInput) := by
  rw [exec, execRoute, hm]
  dsimp only
  split <;> rfl

theorem routed_eq (s : State) (mode : Mode) :
    routed s mode = { s with routeRes0 := (routed s mode).routeRes0, routeRes1 := (routed s mode).routeRes1 } := by
  unfold routed
  split <;> rfl

theorem completeOk_routed (s : State) (mode : Mode) :
    completeOk (routed s mode) =
      { s with
        routeRes0 := (routed s mode).routeRes0
        routeRes1 := (routed s mode).routeRes1
        status := statusDone s.status } := by
  rw [completeOk, routed_eq s mode]
  rfl

theorem routed_of_not_routeNodeOk {s : State} (h : ¬ routeNodeOk s = true) (mode : Mode) :
    (routed s mode).routeRes0 = 0xFFFFFFFF ∧ (routed s mode).routeRes1 = 0xFFFF := by
  rw [routed, if_neg h]
  exact ⟨rfl, rfl⟩

section
variable {s : State} (hnode : routeNodeOk s = true) (mode : Mode)
include hnode

theorem routed_routeRes0 :
    (routed s mode).routeRes0 = roleField s mode s.routeNode.toNat .ctr ++ roleField s mode s.routeNode.toNat .chain ++
      roleField s mode s.routeNode.toNat .key ++ roleField s mode s.routeNode.toNat .pt := by
  rw [routed, if_pos hnode]

theorem routed_routeRes1 :
    (routed s mode).routeRes1 = downField s mode s.routeNode.toNat ++ hopField s mode s.routeNode.toNat := by
  rw [routed, if_pos hnode]

theorem routed_roleField (role : Role) :
    (routed s mode).routeRes0.extractLsb' (routeShift role) 8 = roleField s mode s.routeNode.toNat role := by
  rw [routed_routeRes0 hnode]
  cases role with
  | pt => exact BitVec.extractLsb'_append_eq_right
  | key =>
    exact (BitVec.extractLsb'_append_eq_of_le (by decide)).trans BitVec.extractLsb'_append_eq_right
  | chain =>
    exact (BitVec.extractLsb'_append_eq_of_le (by decide)).trans
      ((BitVec.extractLsb'_append_eq_of_le (by decide)).trans BitVec.extractLsb'_append_eq_right)
  | ctr =>
    exact (BitVec.extractLsb'_append_eq_of_le (by decide)).trans
      ((BitVec.extractLsb'_append_eq_of_le (by decide)).trans BitVec.extractLsb'_append_eq_left)

theorem routed_hopField : (routed s mode).routeRes1.extractLsb' 0 8 = hopField s mode s.routeNode.toNat := by
  rw [routed_routeRes1 hnode]
  exact BitVec.extractLsb'_append_eq_right

theorem routed_downField : (routed s mode).routeRes1.extractLsb' 8 8 = downField s mode s.routeNode.toNat := by
  rw [routed_routeRes1 hnode]
  exact BitVec.extractLsb'_append_eq_left

end

theorem roleField_of_none {s : State} {mode : Mode} {c : Nat} {role : Role}
    (h : role ∉ modeRoles mode ∨ roleProducer s mode c role = none) : roleField s mode c role = 0xFF := by
  unfold roleField
  split
  next hrole => rw [h.resolve_left (not_not.2 hrole)]; rfl
  next => rfl

theorem roleField_of_some {s : State} {mode : Mode} {c p : Nat} {role : Role} {m : Option Nat}
    (hrole : role ∈ modeRoles mode) (h : roleProducer s mode c role = some (p, m)) :
    roleField s mode c role = BitVec.ofNat 8 p := by
  rw [roleField, if_pos hrole, h]
  rfl

/-- A role that went through no combine node counts for nothing in HOP_NODE. -/
theorem bind_snd_eq_none_iff (r : Option (Nat × Option Nat)) :
    r.bind Prod.snd = none ↔ ∀ p m, r ≠ some (p, some m) := by
  rcases r with _ | ⟨p, _ | m⟩ <;> simp

theorem hopField_of_first {s : State} {mode : Mode} {c p m : Nat} {before after : List Role} {role : Role}
    (hroles : modeRoles mode = before ++ role :: after)
    (hbefore : ∀ x ∈ before, ∀ p' m', roleProducer s mode c x ≠ some (p', some m'))
    (h : roleProducer s mode c role = some (p, some m)) : hopField s mode c = BitVec.ofNat 8 m := by
  have skipped := List.findSome?_eq_none_iff.2 fun x hx => (bind_snd_eq_none_iff _).2 (hbefore x hx)
  rw [hopField, hroles, List.findSome?_append, skipped, List.findSome?_cons, h]
  rfl

theorem hopField_of_none {s : State} {mode : Mode} {c : Nat}
    (h : ∀ x ∈ modeRoles mode, ∀ p m, roleProducer s mode c x ≠ some (p, some m)) : hopField s mode c = 0xFF := by
  rw [hopField, List.findSome?_eq_none_iff.2 fun x hx => (bind_snd_eq_none_iff _).2 (h x hx)]
  rfl

theorem downField_of_some {s : State} {c d : Nat} (h : firstOutKind s c [.combineXor] = some d) :
    downField s .ctr c = BitVec.ofNat 8 d := by
  rw [downField, downNode, h]
  rfl

theorem downField_of_none {s : State} {mode : Mode} {c : Nat}
    (h : mode ≠ .ctr ∨ firstOutKind s c [.combineXor] = none) : downField s mode c = 0xFF := by
  cases mode with
  | ecb | cbc => rfl
  | ctr =>
    rw [downField, downNode, h.resolve_left (not_not.2 rfl)]
    rfl

/-- A route that resolves, by the values of its two result registers. -/
theorem exec_route_resolved {s : State} {mode : Mode} {r0 : HWord} {r1 : BitVec 16} (hm : ctrlMode s = some mode)
    (hok : routeOk s mode = true) (h0 : (routed s mode).routeRes0 = r0) (h1 : (routed s mode).routeRes1 = r1) :
    exec .route s = .next { s with routeRes0 := r0, routeRes1 := r1, status := statusDone s.status } := by
  rw [exec_route hm, if_pos hok, completeOk_routed, h0, h1]

/-! ### RUN as the dispatched command (47_router.md R300, R301) -/

theorem ctrlMode_eq_some_iff (s : State) :
    (ctrlMode s = some .ecb ↔ s.ctrl.extractLsb' 0 2 = 0) ∧
      (ctrlMode s = some .cbc ↔ s.ctrl.extractLsb' 0 2 = 1) ∧
      (ctrlMode s = some .ctr ↔ s.ctrl.extractLsb' 0 2 = 2) := by
  rw [← BitVec.toNat_inj, ← BitVec.toNat_inj, ← BitVec.toNat_inj]
  unfold ctrlMode
  generalize (s.ctrl.extractLsb' 0 2).toNat = mode
  match mode with
  | 0 | 1 | 2 | _ + 3 => simp

theorem exec_dispatched (s : State) (mode : Mode) :
    exec (dispatched mode (ctrlDir s) (ctrlTrunc s)) s = finish s (runBody s mode) := by
  cases mode with
  | ecb =>
    unfold runBody
    cases ctrlDir s <;> rfl
  | cbc =>
    unfold runBody
    cases ctrlDir s
    · cases ctrlTrunc s <;> rfl
    · rfl
  | ctr => rfl

theorem exec_run {s : State} {mode : Mode} {c : Cipher} (hm : ctrlMode s = some mode) (hc : ctrlCipher s = some c) :
    exec .run s = finish (routed s mode) (if routeOk s mode then runBody (routed s mode) mode
      else .error .missingInput) := by
  rw [exec, execRun, hm, hc]

/-! ### The dispatched command on a completed state

A command reads nothing of STATUS, so on a completed state it answers its results completed. -/

theorem map_guarded {α β : Type} (f : α → β) (l : List (Option CmdError)) (r : α) :
    (guarded l r).map f = guarded l (f r) := by
  induction l with
  | nil => rfl
  | cons check l ih =>
    cases check with
    | none => exact ih
    | some e => rfl

theorem map_completeOk_decResult (c : Cipher) (s : State) (plain : List Byte) (chain : Block) :
    (decResult c s plain chain).map completeOk = decResult c (completeOk s) plain chain := by
  have strip : stripMessage (completeOk s) plain = stripMessage s plain := rfl
  unfold decResult
  rw [strip]
  cases stripMessage s plain <;> rfl

/-- The refused values of CIPHER are refused on both states. -/
theorem map_completeOk_cipher {s : State} {f f' : Cipher → Except CmdError State}
    (h : ∀ c, (f c).map completeOk = f' c) :
    Except.map completeOk (match ctrlCipher s with | none => .error .illegalCommand | some c => f c) =
      match ctrlCipher (completeOk s) with | none => .error .illegalCommand | some c => f' c := by
  have cipher : ctrlCipher (completeOk s) = ctrlCipher s := rfl
  rw [cipher]
  cases ctrlCipher s with
  | none => rfl
  | some c => exact h c

theorem map_completeOk_checked {x x' : Except CmdError State} (l : List (Option CmdError)) (h : x.map completeOk = x') :
    Except.map completeOk (match guarded l () with | .error e => .error e | .ok () => x) =
      match guarded l () with | .error e => .error e | .ok () => x' := by
  cases guarded l () with
  | error e => rfl
  | ok _ => exact h

theorem map_completeOk_ecbEncBody (s : State) : (ecbEncBody s).map completeOk = ecbEncBody (completeOk s) :=
  map_completeOk_cipher fun _ => map_guarded completeOk _ _

theorem map_completeOk_cbcEncBody (s : State) : (cbcEncBody s).map completeOk = cbcEncBody (completeOk s) :=
  map_completeOk_cipher fun _ => map_guarded completeOk _ _

theorem map_completeOk_cbcEncTruncBody (s : State) :
    (cbcEncTruncBody s).map completeOk = cbcEncTruncBody (completeOk s) :=
  map_completeOk_cipher fun _ => map_guarded completeOk _ _

theorem map_completeOk_ctrBody (s : State) : (ctrBody s).map completeOk = ctrBody (completeOk s) :=
  map_completeOk_cipher fun _ => map_guarded completeOk _ _

theorem map_completeOk_ecbDecBody (s : State) : (ecbDecBody s).map completeOk = ecbDecBody (completeOk s) :=
  map_completeOk_cipher fun c => map_completeOk_checked _ (map_completeOk_decResult c s _ _)

theorem map_completeOk_cbcDecBody (s : State) : (cbcDecBody s).map completeOk = cbcDecBody (completeOk s) :=
  map_completeOk_cipher fun c => map_completeOk_checked _ (map_completeOk_decResult c s _ _)

theorem map_completeOk_runBody (s : State) (mode : Mode) :
    (runBody s mode).map completeOk = runBody (completeOk s) mode := by
  have dir : ctrlDir (completeOk s) = ctrlDir s := rfl
  have trunc : ctrlTrunc (completeOk s) = ctrlTrunc s := rfl
  unfold runBody
  rw [dir, trunc]
  cases mode with
  | ecb =>
    cases ctrlDir s
    · exact map_completeOk_ecbEncBody s
    · exact map_completeOk_ecbDecBody s
  | cbc =>
    cases ctrlDir s
    · cases ctrlTrunc s
      · exact map_completeOk_cbcEncBody s
      · exact map_completeOk_cbcEncTruncBody s
    · exact map_completeOk_cbcDecBody s
  | ctr => exact map_completeOk_ctrBody s

/-- Completing twice is completing once. -/
theorem finish_completeOk (s : State) (x : Except CmdError State) :
    finish (completeOk s) (x.map completeOk) = finish s x := by
  cases x <;> rfl

/-- The command that MODE, DIR and TRUNC name, on a completed state. -/
theorem exec_dispatched_completeOk (s : State) (mode : Mode) :
    exec (dispatched mode (ctrlDir s) (ctrlTrunc s)) (completeOk s) = finish s (runBody s mode) := by
  rw [← finish_completeOk, map_completeOk_runBody]
  exact exec_dispatched (completeOk s) mode

/-- RUN answers what the dispatched command answers on the state ROUTE leaves. -/
theorem exec_run_resolved {s : State} {mode : Mode} {c : Cipher} (hm : ctrlMode s = some mode)
    (hc : ctrlCipher s = some c) (hok : routeOk s mode = true) :
    exec .run s = exec (dispatched mode (ctrlDir s) (ctrlTrunc s)) (completeOk (routed s mode)) := by
  have dir : ctrlDir (routed s mode) = ctrlDir s := by rw [ctrlDir, routed_ctrl, ctrlDir]
  have trunc : ctrlTrunc (routed s mode) = ctrlTrunc s := by rw [ctrlTrunc, routed_ctrl, ctrlTrunc]
  rw [exec_run hm hc, if_pos hok, ← dir, ← trunc, exec_dispatched_completeOk]

/-! ### The dispatched command on whole blocks -/

/-- Without padding a decrypting command keeps its whole plaintext. -/
theorem finish_decResult_unpadded {s : State} (hpad : ctrlPad s = false) (c : Cipher) (plain : List Byte)
    (chain : Block) :
    finish s (decResult c s plain chain) = .next (completeOk (modeResult s c plain chain s.ctrcur)) := by
  rw [decResult, stripMessage, hpad]
  rfl

/-- With full operands and whole blocks that fit, the dispatched command completes, its output as long as the
message. -/
theorem exec_dispatched_full {s : State} {mode : Mode} {c : Cipher} (hc : ctrlCipher s = some c)
    (hpad : ctrlPad s = false) (hkey : operandFull s .key) (hiv : mode = .cbc → operandFull s .iv)
    (hctr : mode = .ctr → operandFull s .nonce ∧ operandFull s .ctr0) (hfits : s.len.toNat ≤ s.cfg.msgbufBytes)
    (hwhole : s.len.toNat % 16 = 0) (dir trunc : Bool) :
    ∃ (l : List Byte) (chain : Block) (ctrcur : Half), l.length = s.len.toNat ∧
      exec (dispatched mode dir trunc) s = .next (completeOk (modeResult s c l chain ctrcur)) := by
  have enc : EncLengthOk s := ⟨hfits, .inr hwhole⟩
  have dec : DecLengthOk s := ⟨hfits, hwhole, fun h => by rw [hpad] at h; cases h⟩
  have padded : (padMessage s).length = s.len.toNat := by simp [padMessage_length, hpad]
  have length := message_length s
  cases mode with
  | ecb =>
    cases dir with
    | false =>
      refine ⟨_, _, _, ?_, (execEcbenc_full hc hkey).trans (if_pos enc)⟩
      simp only [bytesOf_length, List.length_map, wholeBlocks_length]
      omega
    | true =>
      refine ⟨_, _, _, ?_, (execEcbdec_full hc hkey).trans ((if_pos dec).trans (finish_decResult_unpadded hpad c _ _))⟩
      simp only [bytesOf_length, List.length_map, wholeBlocks_length]
      omega
  | cbc =>
    specialize hiv rfl
    cases dir with
    | false =>
      cases trunc with
      | false =>
        refine ⟨_, _, _, ?_, (execCbcenc_full hc hkey hiv).trans (if_pos enc)⟩
        rw [bytesOf_length, chainedBlocks_length]
        omega
      | true => exact ⟨_, _, _, take_truncBlocks_length c s, (execCbcenct_full hc hkey hiv).trans (if_pos hfits)⟩
    | true =>
      refine ⟨_, _, _, ?_, (execCbcdec_full hc hkey hiv).trans
        ((if_pos dec).trans (finish_decResult_unpadded hpad c _ _))⟩
      simp only [bytesOf_length, cbcDecBlocks_length, wholeBlocks_length]
      omega
  | ctr =>
    obtain ⟨hnonce, hctr⟩ := hctr rfl
    exact ⟨_, _, _, ctrText_length c s, (execCtrx_full hc hkey hnonce hctr).trans (if_pos hfits)⟩

theorem routed_sameOperands (s : State) (mode : Mode) : SameOperands s (completeOk (routed s mode)) := by
  constructor
  case full =>
    intro x hx
    cases x <;> simpa [operandFull] using hx
  all_goals simp

end Sys2Proof.Machine

namespace Sys2Proof.Proofs

open Sys2Proof.Machine Sys2Proof.Safety

/-! ### The obligations on the router -/

/-- Settles O55: each lookup is a search through the edge indices in order, which stops at the first match. -/
theorem lookupsFollowEdgeOrder : Obligations.LookupsFollowEdgeOrder := by
  unfold Obligations.LookupsFollowEdgeOrder
  exact fun s n p c ks => ⟨honored_eq_some_iff s n p, rfl, firstInKind_eq_some_iff s n ks c,
    firstOutKind_eq_some_iff s c ks⟩

/-- Settles O56: both roles resolve at their own ports, so no field names a combine node. -/
theorem routeDirectEcb : Obligations.RouteDirectEcb := by
  unfold Obligations.RouteDirectEcb
  intro s p k hm hvalid hcipher hp hpkind hk hkkind
  have hnode := (routeNodeOk_iff s).2 ⟨hvalid, hcipher⟩
  have pt : roleProducer s .ecb s.routeNode.toNat .pt = some (p, none) :=
    resolve_source hcipher hp hpkind (by decide) (by decide)
  have key : roleProducer s .ecb s.routeNode.toNat .key = some (k, none) :=
    resolve_source hcipher hk hkkind (by decide) (by decide)
  refine exec_route_resolved hm ((routeOk_iff s .ecb).2 ⟨hvalid, hcipher, by simp [modeRoles, pt, key]⟩) ?_ ?_
  · rw [routed_routeRes0 hnode, roleField_of_some (by decide) pt, roleField_of_some (by decide) key,
      roleField_of_none (role := .chain) (.inl (by decide)), roleField_of_none (role := .ctr) (.inl (by decide))]
    rfl
  · rw [routed_routeRes1 hnode, downField_of_none (.inl (by decide)),
      hopField_of_none (by simp [modeRoles, pt, key])]
    rfl

/-- Settles O57: in CBC PT is the first role through the combine node on the `xor` port, and CHAIN goes through it
too; in CTR only PT is found at a combine node, the downstream one. -/
theorem routeThroughCombineNode : Obligations.RouteThroughCombineNode := by
  unfold Obligations.RouteThroughCombineNode
  intro s m p k v hvalid hcipher hk hkkind
  have hnode := (routeNodeOk_iff s).2 ⟨hvalid, hcipher⟩
  have key : resolve s s.routeNode.toNat .key = some (k, none) :=
    resolve_source hcipher hk hkkind (by decide) (by decide)
  constructor
  · intro hm hptport hivport hxor hcombine hp hv
    have through {role : Role} (hport : firstIn s s.routeNode.toNat (rolePort role) = none) :
        resolve s s.routeNode.toNat role =
          (firstInKind s m (roleKinds role) s.routeNode.toNat).map (fun t => (t, some m)) :=
      resolve_through_xor (by simp [hport]) hxor hcombine
    have pt : roleProducer s .cbc s.routeNode.toNat .pt = some (p, some m) :=
      (through (role := .pt) hptport).trans (congrArg _ hp)
    have key : roleProducer s .cbc s.routeNode.toNat .key = some (k, none) := key
    have chain : roleProducer s .cbc s.routeNode.toNat .chain = some (v, some m) :=
      (through (role := .chain) hivport).trans (congrArg _ hv)
    refine exec_route_resolved hm
      ((routeOk_iff s .cbc).2 ⟨hvalid, hcipher, by simp [modeRoles, pt, key, chain]⟩) ?_ ?_
    · rw [routed_routeRes0 hnode, roleField_of_some (by decide) pt, roleField_of_some (by decide) key,
        roleField_of_some (by decide) chain, roleField_of_none (role := .ctr) (.inl (by decide))]
    · rw [routed_routeRes1 hnode, downField_of_none (.inl (by decide)),
        hopField_of_first (before := []) rfl (by simp) pt]
  · intro hm hv hvkind hd hp
    have pt : roleProducer s .ctr s.routeNode.toNat .pt = some (p, none) :=
      (roleProducer_ctr_pt_eq_some_iff s _ p none).2 ⟨rfl, m, hd, hp⟩
    have key : roleProducer s .ctr s.routeNode.toNat .key = some (k, none) := key
    have ctr : roleProducer s .ctr s.routeNode.toNat .ctr = some (v, none) :=
      resolve_source hcipher hv hvkind (by decide) (by decide)
    refine exec_route_resolved hm
      ((routeOk_iff s .ctr).2 ⟨hvalid, hcipher, by simp [modeRoles, pt, key, ctr]⟩) ?_ ?_
    · rw [routed_routeRes0 hnode, roleField_of_some (by decide) pt, roleField_of_some (by decide) key,
        roleField_of_some (by decide) ctr, roleField_of_none (role := .chain) (.inl (by decide))]
    · rw [routed_routeRes1 hnode, downField_of_some hd, hopField_of_none (by simp [modeRoles, pt, key, ctr])]

/-- Settles O58: the results are those of `routed`, which ROUTE keeps on both of its completions. -/
theorem routeKeepsItsResults : Obligations.RouteKeepsItsResults := by
  unfold Obligations.RouteKeepsItsResults
  refine ⟨⟨rfl, rfl, rfl, fun s c => ⟨fun mode role h => roleProducer_eq_resolve h s c,
    roleProducer_ctr_pt_eq_some_iff s c⟩⟩, ?_, ?_⟩
  · intro s c q role ks hrow
    obtain ⟨rfl, rfl⟩ := role_row hrow
    simp only [← kindIn_iff]
    exact ⟨fun p hp hne hkind => resolve_direct hp hne hkind, fun m hm hkind => resolve_through_port hm hkind,
      fun hport => ⟨fun m hm hkind => resolve_through_xor hport hm hkind, resolve_eq_none hport⟩⟩
  · intro s mode hm
    simp only [← routeNodeOk_iff]
    refine ⟨routeOk_iff s mode, (routed s mode).routeRes0, (routed s mode).routeRes1,
      fun h => routed_of_not_routeNodeOk h mode, fun hnode => ?_, ?_⟩
    · simp only [routed_roleField hnode, routed_hopField hnode, routed_downField hnode]
      refine ⟨fun role => ⟨roleField_of_none, fun p m => roleField_of_some⟩,
        fun before after role p m => hopField_of_first, hopField_of_none, ?_, downField_of_none⟩
      rintro d rfl hd
      exact downField_of_some hd
    · rw [exec_route hm, completeOk_routed, ← routed_eq]

/-- Settles O59: RUN finishes with the dispatched command's pseudocode on the routed state, which answers the same on
that state completed. -/
theorem runIsRouteThenCommand : Obligations.RunIsRouteThenCommand := by
  unfold Obligations.RunIsRouteThenCommand
  refine ⟨fun s => ?_, fun s mode c hm hc => ⟨fun hok => ?_, fun hok => ?_⟩⟩
  · obtain ⟨ecb, cbc, ctr⟩ := ctrlMode_eq_some_iff s
    exact ⟨ecb, cbc, ctr, rfl, rfl⟩
  · exact ⟨completeOk (routed s mode), by rw [exec_route hm, if_pos hok], by simp, exec_run_resolved hm hc hok⟩
  · rw [exec_run hm hc, exec_route hm, hok]
    rfl

/-- Settles O60: the routed state has the operands, the message and the length of `s`, so the dispatched command
completes on it. -/
theorem runCompletes : Obligations.RunCompletes := by
  unfold Obligations.RunCompletes
  intro s mode c _ hm hc hok hpad hkey hiv hctr hfits hwhole
  have same := routed_sameOperands s mode
  have len : (completeOk (routed s mode)).len = s.len := routed_len s mode
  have done : statusDone (routed s mode).status = statusDone s.status := by rw [routed_status]
  obtain ⟨l, chain, ctrcur, length, command⟩ := exec_dispatched_full (s := completeOk (routed s mode)) (mode := mode)
    (same.ctrlCipher.trans hc) (by rwa [ctrlPad, same.ctrl]) (same.full _ hkey) (fun h => same.full _ (hiv h))
    (fun h => ⟨same.full _ (hctr h).1, same.full _ (hctr h).2⟩) (by rwa [len, same.cfg]) (by rwa [len])
    (ctrlDir s) (ctrlTrunc s)
  exact ⟨_, _, by rw [exec_route hm, if_pos hok], command, (exec_run_resolved hm hc hok).trans command,
    (modeResult_outLen_eq_len length).trans len, routed_errcode s mode, done, rfl, rfl⟩

end Sys2Proof.Proofs
end

section
/-! PROOF. The invariant of the block: it holds at reset (70_reset_and_hazards.md R351), and acceptance, completion
(60_exceptions.md R321 to R323) and every event of the bus keep it. -/

namespace Sys2Proof.Machine

open Sys2Proof.Safety

/-! ### The parts of the invariant that completion leaves (10_state.md R42, R54) -/

/-- The invariant of the block but for STATUS and ERRCODE. -/
structure DataInv (s : State) : Prop where
  params : s.cfg.legal
  memory : memOk s
  output : outputOk s
  tables : tablesOk s

theorem dataInv_of_machineInv {s : State} (h : MachineInv s) : DataInv s := { h with }

theorem outputOk_of_outLen_zero {s : State} (h : s.outLen = 0) : outputOk s := by
  have none : s.outLen.toNat = 0 := by rw [h]; rfl
  exact ⟨by omega, fun a ha => by omega⟩

theorem DataInv.routed {s : State} (h : DataInv s) (m : Mode) : DataInv (routed s m) := by
  rw [routed_eq]
  exact { h with }

/-- Storing bytes lists their addresses and no others. -/
theorem cellsGet_memWrite_isSome (l : List Byte) (m : Memory) (a b : Nat) :
    (cellsGet (memWrite m a l) b).isSome = true ↔
      (a ≤ b ∧ b < a + l.length) ∨ (cellsGet m b).isSome = true := by
  rw [cellsGet_memWrite]
  split
  next h =>
    rw [List.getElem?_eq_getElem (by omega)]
    simp [h]
  next h => simp [h]

/-- Storing in the buffers keeps the memory canonical and inside them. -/
theorem memOk_memWrite {s : State} (h : memOk s) {m : Memory} (hm : m.Sublist s.mem) {a : Nat} {l : List Byte}
    (hl : (msgInBase ≤ a ∧ a + l.length ≤ msgInBase + s.cfg.msgbufBytes) ∨
      (msgOutBase ≤ a ∧ a + l.length ≤ msgOutBase + (s.cfg.msgbufBytes + 16))) :
    memOk { s with mem := memWrite m a l } := by
  obtain ⟨sorted, inside⟩ := h
  refine ⟨memWrite_wf l m a (sorted.sublist hm), fun c hc => ?_⟩
  rcases mem_memWrite hc with hc | hc
  · exact inside c (hm.subset hc)
  · dsimp only
    omega

/-- A mode command's output fits MSG_OUT, and OUT_LEN covers just its bytes (46_modes.md R250). -/
theorem DataInv.modeResult {s : State} (h : DataInv s) (c : Cipher) {l : List Byte} (chain : Block) (ctrcur : Half)
    (hn : s.len.toNat ≤ s.cfg.msgbufBytes) (hl : l.length ≤ s.len.toNat + 16) :
    DataInv (modeResult s c l chain ctrcur) := by
  obtain ⟨_, _, hbytes, _⟩ := h.params
  have outLen : (Machine.modeResult s c l chain ctrcur).outLen.toNat = l.length :=
    modeResult_outLen s c l chain ctrcur (by omega)
  refine ⟨h.params, memOk_memWrite h.memory List.filter_sublist (.inr ⟨le_rfl, by omega⟩), ?_, h.tables⟩
  refine ⟨outLen.trans_le (show l.length ≤ s.cfg.msgbufBytes + 16 by omega), fun a ha => ?_⟩
  exact (cellsGet_memWrite_isSome l _ _ _).2 (.inl ⟨by omega, by omega⟩)

/-- The results of a command keep the buffers and tables in order. -/
theorem Effect.dataInv {s r : State} {i : Instr} (h : Effect s i r) (hs : DataInv s) : DataInv r := by
  cases h with
  | clear => exact { hs with output := outputOk_of_outLen_zero rfl }
  | xfer fits =>
    refine ⟨hs.params, memOk_memWrite hs.memory (.refl _) (.inl ⟨le_rfl, by simpa using fits⟩), ?_, hs.tables⟩
    exact ⟨hs.output.1, fun a ha => (cellsGet_memWrite_isSome _ _ _ _).2 (.inr (hs.output.2 a ha))⟩
  | mode i c l chain ctrcur hi hc hn hl => exact hs.modeResult c chain ctrcur hn hl
  | route m => exact hs.routed m
  | run m c l chain ctrcur hc hn hl =>
    exact (hs.routed m).modeResult c chain ctrcur (by simpa using hn) (by simpa using hl)
  | _ => exact { hs with }

/-! ### STATUS and ERRCODE at acceptance and completion (60_exceptions.md R321 to R323, R333) -/

theorem errCode_mem (e : CmdError) : errCode e ≠ 0 ∧ errCode e ∈ [(0 : BitVec 8), 1, 3, 4, 5, 6] := by
  cases e <;> decide

/-- Completion without error, of a command accepted with no error set. -/
theorem statusOk_completeOk {s : State} (herr : s.status.err = false) (hcode : s.errcode = 0) :
    statusOk (completeOk s) :=
  ⟨nofun, fun _ => rfl, by simp [herr, hcode], by simp [hcode]⟩

theorem statusOk_raiseError (s : State) (e : CmdError) : statusOk (raiseError s e) := by
  obtain ⟨nonzero, listed⟩ := errCode_mem e
  exact ⟨nofun, fun _ => rfl, ⟨fun _ => nonzero, fun _ => rfl⟩, listed⟩

theorem statusOk_accept (s : State) (w : HWord) : statusOk (accept s w) :=
  ⟨fun _ => ⟨rfl, rfl⟩, nofun, by simp, by simp⟩

/-- While busy ERR and ERRCODE are 0. -/
theorem noError_of_busy {s : State} (h : statusOk s) (hb : s.status.busy = true) :
    s.status.err = false ∧ s.errcode = 0 := by
  obtain ⟨busy, -, agree, -⟩ := h
  obtain ⟨-, herr⟩ := busy hb
  refine ⟨herr, ?_⟩
  by_contra hcode
  exact absurd (agree.2 hcode) (by simp [herr])

theorem DataInv.raiseError {s : State} (h : DataInv s) (e : CmdError) : MachineInv (raiseError s e) :=
  { h with status := statusOk_raiseError s e }

/-- Every command's results leave ERR and ERRCODE to its completion. -/
theorem Effect.error_eq {s r : State} {i : Instr} (h : Effect s i r) :
    r.status.err = s.status.err ∧ r.errcode = s.errcode := by
  cases h with
  | route m => simp
  | run m => simp [modeResult]
  | _ => exact ⟨rfl, rfl⟩

theorem exec_keepsInv {i : Instr} {s t : State} (hs : MachineInv s) (hb : s.status.busy = true)
    (h : exec i s = .next t) : MachineInv t := by
  have data := dataInv_of_machineInv hs
  rcases exec_cases h with ⟨r, hr, rfl⟩ | ⟨e, rfl⟩ | ⟨e, m, -, -, rfl⟩
  · obtain ⟨herr, hcode⟩ := noError_of_busy hs.status hb
    obtain ⟨herr', hcode'⟩ := hr.error_eq
    exact { hr.dataInv data with status := statusOk_completeOk (herr'.trans herr) (hcode'.trans hcode) }
  · exact data.raiseError e
  · exact (data.routed m).raiseError e

theorem complete_keepsInv {s t : State} (hs : MachineInv s) (hb : s.status.busy = true)
    (h : complete s = .next t) : MachineInv t := by
  by_cases hd : ∃ i, decode s.cmd = .ok i
  · obtain ⟨i, hd⟩ := hd
    rw [complete, hd] at h
    exact exec_keepsInv hs hb h
  · rw [complete_illegal hd] at h
    cases h
    exact (dataInv_of_machineInv hs).raiseError .illegalCommand

/-! ### The bus keeps the invariant (20_memory.md R84, R87) -/

/-- The index of a table entry, or the offset of a MSG_IN word, that the parameters give the block. -/
def LocInside (p : Params) : Loc → Prop
  | .node n => n < p.nNodes
  | .edge j => j < p.nEdges
  | .msgIn a => a + 4 ≤ p.msgbufBytes
  | _ => True

theorem locInside_controlLoc (p : Params) (k : Nat) : LocInside p (controlLoc k) := by
  unfold controlLoc
  split <;> trivial

theorem locInside_operandLoc (p : Params) (k : Nat) : LocInside p (operandLoc k) := by
  unfold operandLoc
  repeat' split
  all_goals trivial

/-- An aligned address names only what exists: MSGBUF_BYTES is a multiple of 4. -/
theorem locInside_locOf {p : Params} {a : Nat} (hp : p.legal) (ha : a % 4 = 0) : LocInside p (locOf p a) := by
  obtain ⟨hm, -⟩ := hp
  have entry := mapEntry_locOf p a
  generalize locOf p a = l at entry ⊢
  cases entry with
  | control => exact locInside_controlLoc p _
  | operand => exact locInside_operandLoc p _
  | node h h' hn => exact hn
  | edge h h' hn => exact hn
  | msgIn h h' hn =>
    simp only [LocInside]
    omega
  | _ => trivial

theorem mem_putLane {m : Memory} {a : Nat} {b : Byte} {on : Bool} {c : Host.Cell} (h : c ∈ putLane m a b on) :
    c ∈ m ∨ c.1 = a := by
  unfold putLane at h
  split at h
  · rcases mem_cellsPut h with rfl | h
    · exact .inr rfl
    · exact .inl h
  · exact .inl h

theorem mem_writeBufferWord {m : Memory} {a : Nat} {w : Word} {strb : BitVec 4} {c : Host.Cell}
    (h : c ∈ writeBufferWord m a w strb) : c ∈ m ∨ (a ≤ c.1 ∧ c.1 < a + 4) := by
  rcases (mem_putLane h).imp_left fun h => (mem_putLane h).imp_left fun h => (mem_putLane h).imp_left mem_putLane
    with (((h | h) | h) | h) | h
  · exact .inl h
  all_goals exact .inr (by omega)

/-- A store unlists no address. -/
theorem cellsGet_putLane_isSome {m : Memory} {a b : Nat} {v : Byte} {on : Bool}
    (h : (cellsGet m b).isSome = true) : (cellsGet (putLane m a v on) b).isSome = true := by
  unfold putLane
  split
  · rw [cellsGet_put]
    split
    · rfl
    · exact h
  · exact h

theorem cellsGet_writeBufferWord_isSome {m : Memory} {b : Nat} (h : (cellsGet m b).isSome = true) (a : Nat) (w : Word)
    (strb : BitVec 4) : (cellsGet (writeBufferWord m a w strb) b).isSome = true :=
  cellsGet_putLane_isSome (cellsGet_putLane_isSome (cellsGet_putLane_isSome (cellsGet_putLane_isSome h)))

/-- A write while idle, to a location inside the block. -/
theorem writeLoc_keepsInv {s : State} (h : MachineInv s) (d : HWord) (strb : BitVec 4) {l : Loc}
    (hl : LocInside s.cfg l) : MachineInv (writeLoc s d strb l) := by
  cases l with
  | cmd =>
    simp only [writeLoc]
    split
    · exact { h with status := statusOk_accept s d }
    · exact h
  | operand x i => cases x <;> exact { h with }
  | node n => exact { h with tables := ⟨tablePut_wf _ n _ hl h.tables.1, h.tables.2⟩ }
  | edge j => exact { h with tables := ⟨h.tables.1, tablePut_wf _ j _ hl h.tables.2⟩ }
  | msgIn a =>
    have fits : a + 4 ≤ s.cfg.msgbufBytes := hl
    obtain ⟨sorted, inside⟩ := h.memory
    obtain ⟨short, written⟩ := h.output
    refine { h with
      memory := ⟨writeBufferWord_wf _ _ _ _ sorted, fun c hc => ?_⟩
      output := ⟨short, fun b hb => cellsGet_writeBufferWord_isSome (written b hb) _ _ _⟩ }
    rcases mem_writeBufferWord hc with hc | ⟨hlo, hhi⟩
    · exact inside c hc
    · exact .inl ⟨by omega, by simp only [writeLoc]; omega⟩
  | _ => exact { h with }

theorem hostWrite_keepsInv {s : State} (h : MachineInv s) (a : BitVec 16) (d : HWord) (strb : BitVec 4) :
    MachineInv (hostWrite s a d strb) := by
  unfold hostWrite
  split
  · exact { h with }
  next ha =>
    split
    · exact { h with }
    · exact { writeLoc_keepsInv h d strb (locInside_locOf h.params (not_not.1 ha)) with }

theorem hostRead_keepsInv {s : State} (h : MachineInv s) (a : BitVec 16) : MachineInv (hostRead s a) := by
  obtain ⟨r, n, hread⟩ := hostRead_frame s a
  rw [hread]
  exact { h with }

/-- The reset values meet the invariant under every legal choice of the parameters (70_reset_and_hazards.md R351). -/
theorem machineInv_of_reset {s : State} (hp : s.cfg.legal) (hstatus : s.status = State.reset.status)
    (hcode : s.errcode = 0) (hmem : s.mem = []) (hout : s.outLen = 0) (hnodes : s.nodes = []) (hedges : s.edges = []) :
    MachineInv s where
  params := hp
  status := by simp [statusOk, hstatus, hcode, State.reset]
  memory := by simp [memOk, hmem]
  output := outputOk_of_outLen_zero hout
  tables := by
    have empty (n : Nat) : Table.wf n [] := ⟨.nil, nofun⟩
    rw [tablesOk, hnodes, hedges]
    exact ⟨empty _, empty _⟩

theorem busEvent_keepsInv {s : State} (h : MachineInv s) (e : BusEvent) : MachineInv (busEvent s e) := by
  cases e with
  | read a => exact hostRead_keepsInv h a
  | write a d strb => exact hostWrite_keepsInv h a d strb
  | reset => exact machineInv_of_reset h.params rfl rfl rfl rfl rfl rfl

theorem busStep_keepsInv {s : State} (h : MachineInv s) : MachineInv (busStep s) := by
  unfold busStep
  split
  · exact h
  next e rest _ =>
    have issued : MachineInv { s with pending := rest } := { h with }
    exact busEvent_keepsInv issued e

theorem waited_keepsInv {s : State} (h : MachineInv s) : MachineInv (waited s) := by
  unfold waited
  split
  · exact { h with }
  · exact h

end Sys2Proof.Machine

namespace Sys2Proof.Proofs

open Sys2Proof.Machine Sys2Proof.Safety

/-! ### The obligations on the invariant -/

/-- Settles O24: the completion of a command keeps the invariant, and so does every event of the bus. -/
theorem stepKeepsInv : Obligations.StepKeepsInv := by
  unfold Obligations.StepKeepsInv
  intro s t hs h
  by_cases hc : completes s
  · rw [step_complete hc] at h
    exact complete_keepsInv hs hc.1 h
  · rw [step_bus hc] at h
    cases h
    exact busStep_keepsInv (waited_keepsInv hs)

/-- Settles O23: the default parameters are legal. -/
theorem invAtReset : Obligations.InvAtReset := by
  unfold Obligations.InvAtReset
  exact machineInv_of_reset (by decide) rfl rfl rfl rfl rfl rfl

end Sys2Proof.Proofs
end

section
/-! PROOF. Acceptance, completion and errors (60_exceptions.md): what every command ends with, the errors each can end
with, and the operand check. -/

namespace Sys2Proof.Machine

open Sys2Proof.Safety

/-! ### Writes of CMD (60_exceptions.md R321) -/

theorem writeLoc_cmd_full (s : State) (w : HWord) : writeLoc s w 0xF .cmd = accept s w := by
  rw [writeLoc, if_pos rfl]

theorem writeLoc_cmd_partial (s : State) (w : HWord) {strb : BitVec 4} (h : strb ≠ 0xF) :
    writeLoc s w strb .cmd = s := by
  rw [writeLoc, if_neg h]

/-- An aligned write while busy (70_reset_and_hazards.md R360). -/
theorem hostWrite_busy {s : State} {a : BitVec 16} (d : HWord) (strb : BitVec 4) (hb : s.status.busy = true)
    (ha : a.toNat % 4 = 0) : hostWrite s a d strb =
      { s with resp := some ⟨.okay, none⟩, status := { s.status with writeIgnored := true } } := by
  rw [hostWrite, if_neg (not_not_intro ha), if_pos hb]

theorem waited_succ {s : State} {n : Nat} (hb : s.status.busy = true) (hn : s.wait = n + 1) :
    waited s = { s with wait := n } := by
  rw [waited_busy hb, hn, Nat.add_sub_cancel]

/-- While a command waits, an aligned write sets WIGN and does nothing else. -/
theorem step_write_busy {s : State} {a : BitVec 16} {d : HWord} {strb : BitVec 4} {rest : List BusEvent}
    (h : ¬ completes s) (hb : s.status.busy = true) (hp : s.pending = .write a d strb :: rest)
    (ha : a.toNat % 4 = 0) : step s = .next { waited s with
      pending := rest
      status := { s.status with writeIgnored := true }
      resp := some ⟨.okay, none⟩ } := by
  rw [step_write h hp, waited_busy hb]
  exact congrArg Host.Outcome.next (hostWrite_busy d strb hb ha)

/-! ### Every command completes (60_exceptions.md R322, R325) -/

theorem finish_next (s : State) (x : Except CmdError State) : ∃ t, finish s x = .next t := by
  cases x with
  | ok r => exact ⟨_, rfl⟩
  | error e => exact ⟨_, rfl⟩

theorem exec_next (i : Instr) (s : State) : ∃ t, exec i s = .next t := by
  cases i with
  | route =>
    rw [exec, execRoute]
    split <;> exact finish_next _ _
  | run =>
    rw [exec, execRun]
    split <;> exact finish_next _ _
  | nop | clear | xtime | gmul => exact ⟨_, rfl⟩
  | _ => exact finish_next _ _

theorem exec_completes {i : Instr} {s t : State} (h : exec i s = .next t) :
    t.status.busy = false ∧ t.status.done = true := by
  rcases exec_cases h with ⟨r, -, rfl⟩ | ⟨e, rfl⟩ | ⟨e, m, -, -, rfl⟩ <;> exact ⟨rfl, rfl⟩

/-- A command that raised nothing leaves ERR and ERRCODE; one that raised an error kept no result but a route's. -/
theorem exec_results_or_error {i : Instr} {s t : State} (h : exec i s = .next t) :
    (t.status.err = s.status.err ∧ t.errcode = s.errcode ∧
        (i ≠ .clear → t.status.errSticky = s.status.errSticky)) ∨
      ∃ e : CmdError, t = failed { s with routeRes0 := t.routeRes0, routeRes1 := t.routeRes1 } e ∧
        ((i ≠ .route ∧ i ≠ .run) ∨ e = .illegalCommand →
          t.routeRes0 = s.routeRes0 ∧ t.routeRes1 = s.routeRes1) := by
  rcases exec_cases h with ⟨r, hr, rfl⟩ | ⟨e, rfl⟩ | ⟨e, m, hi, he, rfl⟩
  · obtain ⟨herr, hcode⟩ := hr.error_eq
    exact .inl ⟨herr, hcode, fun hi => by rw [completeOk_status, hr.status_eq hi]⟩
  · exact .inr ⟨e, rfl, fun _ => ⟨rfl, rfl⟩⟩
  · refine .inr ⟨e, congrArg (failed · e) (routed_eq s m), ?_⟩
    rintro (⟨hroute, hrun⟩ | hillegal)
    · exact absurd hi (not_or.2 ⟨hroute, hrun⟩)
    · exact absurd hillegal he

theorem complete_next (s : State) :
    ∃ t, complete s = .next t ∧ t.status.busy = false ∧ t.status.done = true ∧ t.cmd = s.cmd := by
  by_cases hd : ∃ i, decode s.cmd = .ok i
  · obtain ⟨i, hd⟩ := hd
    obtain ⟨t, ht⟩ := exec_next i s
    obtain ⟨idle, done⟩ := exec_completes ht
    exact ⟨t, by rw [complete, hd, ← ht], idle, done, (exec_keepsInputs ht).cmd⟩
  · exact ⟨_, complete_illegal hd, rfl, rfl, rfl⟩

/-! ### The errors of each command (60_exceptions.md R328) -/

/-- Every error that a check of `l` can raise has its code in `codes`. -/
def ChecksRaise (codes : List (BitVec 8)) (l : List (Option CmdError)) : Prop :=
  ∀ e, some e ∈ l → errCode e ∈ codes

theorem ChecksRaise.nil {codes : List (BitVec 8)} : ChecksRaise codes [] := nofun

theorem ChecksRaise.cons {codes : List (BitVec 8)} {c : Option CmdError} {l : List (Option CmdError)}
    (hc : ∀ e, c = some e → errCode e ∈ codes) (hl : ChecksRaise codes l) : ChecksRaise codes (c :: l) := by
  intro e he
  rcases List.mem_cons.1 he with he | he
  · exact hc e he.symm
  · exact hl e he

theorem ChecksRaise.failIf {codes : List (BitVec 8)} {l : List (Option CmdError)} {bad : Prop} [Decidable bad]
    {e : CmdError} (he : errCode e ∈ codes) (hl : ChecksRaise codes l) : ChecksRaise codes (failIf bad e :: l) :=
  .cons (fun _ h => failIf_mem h.symm ▸ he) hl

/-- KEY and STATE raise InvalidBlockLength and MissingInput (60_exceptions.md R327). -/
theorem ChecksRaise.need {codes : List (BitVec 8)} {l : List (Option CmdError)} {s : State} {x : OpReg}
    (hx : x = .key ∨ x = .state) (h3 : 3 ∈ codes) (h5 : 5 ∈ codes) (hl : ChecksRaise codes l) :
    ChecksRaise codes (need s x :: l) := by
  refine .cons (fun e he => ?_) hl
  rcases need_cases he with rfl | ⟨-, rfl⟩ | ⟨hx', -⟩
  · exact h5
  · exact h3
  · rcases hx with rfl | rfl <;> simp at hx'

/-- A guarded command leaves ERRCODE or raises an error of its checks. -/
theorem errcode_of_guarded {s r t : State} {l : List (Option CmdError)} {codes : List (BitVec 8)}
    (h : finish s (guarded l r) = .next t) (hr : r.errcode = s.errcode) (hl : ChecksRaise codes l) :
    t.errcode = s.errcode ∨ t.errcode ∈ codes := by
  rcases finish_guarded_cases h with ⟨rfl, -⟩ | ⟨e, he, rfl⟩
  · exact .inl hr
  · exact .inr (hl e he)

/-- A mode command leaves ERRCODE or raises IllegalCommand or an error of its pseudocode. -/
theorem errcode_of_mode {s t : State} {x : Except CmdError State} {es : List CmdError} {codes : List (BitVec 8)}
    (ha : ModeAnswer s es x) (h : finish s x = .next t) (hes : ∀ e ∈ .illegalCommand :: es, errCode e ∈ codes) :
    t.errcode = s.errcode ∨ t.errcode ∈ codes := by
  rcases finish_mode_cases ha h with ⟨-, rfl⟩ | ⟨e, he, rfl⟩ | ⟨c, l, chain, ctrcur, -, -, -, rfl⟩
  · exact .inr (hes _ List.mem_cons_self)
  · exact .inr (hes e (List.mem_cons_of_mem _ he))
  · exact .inl rfl

theorem errcode_of_route {s t : State} (h : execRoute s = .next t) :
    t.errcode = s.errcode ∨ t.errcode ∈ errorCodes .route := by
  rcases execRoute_cases h with ⟨-, rfl⟩ | ⟨m, -, ⟨-, rfl⟩ | ⟨-, rfl⟩⟩
  · exact .inr (show errCode .illegalCommand ∈ errorCodes .route by decide)
  · exact .inl (routed_errcode s m)
  · exact .inr (show errCode .missingInput ∈ errorCodes .route by decide)

theorem chainErrors_codes : ∀ e ∈ .illegalCommand :: chainErrors, errCode e ∈ [(0 : BitVec 8), 3, 4, 5, 6] := by decide

theorem errcode_of_run {s t : State} (h : execRun s = .next t) :
    t.errcode = s.errcode ∨ t.errcode ∈ errorCodes .run := by
  rcases execRun_cases h with rfl | ⟨m, -, ⟨e, he, rfl⟩ | ⟨c, l, chain, ctrcur, -, -, -, rfl⟩⟩
  · exact .inr (chainErrors_codes _ List.mem_cons_self)
  · exact .inr (chainErrors_codes e (List.mem_cons_of_mem _ he))
  · exact .inl (routed_errcode s m)

/-- A command leaves ERRCODE or ends with a code of its row. -/
theorem exec_errcode {i : Instr} {s t : State} (h : exec i s = .next t) :
    t.errcode = s.errcode ∨ t.errcode ∈ errorCodes i := by
  have read (x : OpReg) (hx : x = .key ∨ x = .state) {l : List (Option CmdError)}
      (hl : ChecksRaise [0, 3, 5, 6] l) : ChecksRaise [0, 3, 5, 6] (need s x :: l) :=
    .need hx (by decide) (by decide) hl
  have key := read .key (.inl rfl) .nil
  have state := read .state (.inr rfl) .nil
  have both := read .key (.inl rfl) state
  have round (bad : Prop) [Decidable bad] {l : List (Option CmdError)} (hl : ChecksRaise [0, 3, 5, 6] l) :
      ChecksRaise [0, 3, 5, 6] (failIf bad .illegalCommand :: l) := .failIf (by decide) hl
  cases i with
  | nop | clear | xtime | gmul =>
    cases h
    exact .inl rfl
  | xfer => exact errcode_of_guarded h rfl (.failIf (by decide) .nil)
  | expand => exact errcode_of_guarded h rfl key
  | kstep r => exact errcode_of_guarded h rfl (round _ key)
  | ark r => exact errcode_of_guarded h rfl (round _ both)
  | trace r => exact errcode_of_guarded h rfl (round _ both)
  | encb => exact errcode_of_guarded h rfl both
  | decb => exact errcode_of_guarded h rfl both
  | subb | shrow | mixcol | invsubb | invshrow | invmixcol => exact errcode_of_guarded h rfl state
  | xordemo =>
    exact errcode_of_guarded h rfl (.need (.inl rfl) (by decide) (by decide)
      (.need (.inr rfl) (by decide) (by decide) (.failIf (by decide) (.failIf (by decide) .nil))))
  | ecbenc => exact errcode_of_mode (ecbEncBody_answer s) h (by decide)
  | ecbdec => exact errcode_of_mode (ecbDecBody_answer s) h (by decide)
  | cbcenc => exact errcode_of_mode (cbcEncBody_answer s) h chainErrors_codes
  | cbcenct => exact errcode_of_mode (cbcEncTruncBody_answer s) h chainErrors_codes
  | cbcdec => exact errcode_of_mode (cbcDecBody_answer s) h chainErrors_codes
  | ctrx => exact errcode_of_mode (ctrBody_answer s) h chainErrors_codes
  | route => exact errcode_of_route h
  | run => exact errcode_of_run h

theorem zero_mem_errorCodes (i : Instr) : 0 ∈ errorCodes i := by cases i <;> exact List.mem_cons_self

/-! ### The operand check (60_exceptions.md R326, R327) -/

/-- What the two ways a check can fail give, from what any failure of it gives. -/
theorem needMask_refusals {n : Nat} {m : BitVec n} {e : CmdError} {i : Instr} {s : State}
    (h : ∀ e', needMask m e = some e' → exec i s = .next (failed s e')) :
    (m = 0 → exec i s = .next (failed s .missingInput)) ∧
      (m ≠ 0 → ¬ m = BitVec.allOnes n → exec i s = .next (failed s e)) :=
  ⟨fun h0 => h _ (needMask_zero e h0), fun h0 hall => h _ (needMask_partial e h0 hall)⟩

theorem finish_check_error {s r : State} {c : Option CmdError} {e : CmdError} (l : List (Option CmdError))
    (h : c = some e) : finish s (guarded (c :: l) r) = .next (failed s e) := by
  rw [h, guarded_some, finish_error_eq_failed]

/-- The commands that check KEY before any other operand, STATE after it or not. -/
theorem exec_key_error {s : State} {i : Instr} {e : CmdError}
    (hi : i ∈ [Instr.expand, .encb, .decb, .xordemo] ∨
      (∃ r : BitVec 4, (1 ≤ r.toNat ∧ r.toNat ≤ 10 ∧ i = .kstep r) ∨ (r.toNat ≤ 10 ∧ i = .ark r) ∨
        (r.toNat ≤ 9 ∧ i = .trace r)))
    (h : need s .key = some e) : exec i s = .next (failed s e) := by
  rcases hi with hi | ⟨r, ⟨hlo, hhi, rfl⟩ | ⟨hhi, rfl⟩ | ⟨hhi, rfl⟩⟩
  · simp only [List.mem_cons, List.not_mem_nil, or_false] at hi
    rcases hi with rfl | rfl | rfl | rfl <;> exact finish_check_error _ h
  · rw [exec, execKstep, failIf_neg _ (by omega), guarded_none]
    exact finish_check_error _ h
  · rw [exec, execArk, failIf_neg _ (by omega), guarded_none]
    exact finish_check_error _ h
  · rw [exec, execTrace, failIf_neg _ (by omega), guarded_none]
    exact finish_check_error _ h

/-- The commands that read STATE alone. -/
theorem exec_state_error {s : State} {i : Instr} {e : CmdError}
    (hi : i ∈ [Instr.subb, .shrow, .mixcol, .invsubb, .invshrow, .invmixcol]) (h : need s .state = some e) :
    exec i s = .next (failed s e) := by
  simp only [List.mem_cons, List.not_mem_nil, or_false] at hi
  rcases hi with rfl | rfl | rfl | rfl | rfl | rfl <;> exact finish_check_error _ h

theorem finish_second_check_error {s r : State} {e : CmdError} {c c' : Option CmdError} (l : List (Option CmdError))
    (h : c = none) (h' : c' = some e) : finish s (guarded (c :: c' :: l) r) = .next (failed s e) := by
  rw [h, guarded_none]
  exact finish_check_error l h'

/-- The commands that read STATE too, once KEY is full. -/
theorem exec_state_error_of_key {s : State} {i : Instr} {e : CmdError} (hkey : operandFull s .key)
    (hi : i ∈ [Instr.encb, .decb, .xordemo] ∨
      (∃ r : BitVec 4, (r.toNat ≤ 10 ∧ i = .ark r) ∨ (r.toNat ≤ 9 ∧ i = .trace r)))
    (h : need s .state = some e) : exec i s = .next (failed s e) := by
  have key := need_full hkey
  rcases hi with hi | ⟨r, ⟨hr, rfl⟩ | ⟨hr, rfl⟩⟩
  · simp only [List.mem_cons, List.not_mem_nil, or_false] at hi
    rcases hi with rfl | rfl | rfl <;> exact finish_second_check_error _ key h
  · rw [exec, execArk, failIf_neg _ (by omega), guarded_none]
    exact finish_second_check_error _ key h
  · rw [exec, execTrace, failIf_neg _ (by omega), guarded_none]
    exact finish_second_check_error _ key h

section
variable {s : State} {c : Cipher} {e : CmdError} (hc : ctrlCipher s = some c)
include hc

theorem exec_mode_key_error {i : Instr} (hi : i ∈ modeCommands) (h : need s .key = some e) :
    exec i s = .next (failed s e) := by
  simp only [modeCommands, List.mem_cons, List.not_mem_nil, or_false] at hi
  rcases hi with rfl | rfl | rfl | rfl | rfl | rfl
  · simp only [exec, execEcbenc, ecbEncBody, hc, h, guarded_some, finish_error_eq_failed]
  · simp only [exec, execEcbdec, ecbDecBody, hc, h, guarded_some, finish_error_eq_failed]
  · simp only [exec, execCbcenc, cbcEncBody, hc, h, guarded_some, finish_error_eq_failed]
  · simp only [exec, execCbcenct, cbcEncTruncBody, hc, h, guarded_some, finish_error_eq_failed]
  · simp only [exec, execCbcdec, cbcDecBody, hc, h, guarded_some, finish_error_eq_failed]
  · simp only [exec, execCtrx, ctrBody, hc, h, guarded_some, finish_error_eq_failed]

variable (hkey : operandFull s .key)
include hkey

theorem exec_cbc_iv_error {i : Instr} (hi : i ∈ [Instr.cbcenc, .cbcenct, .cbcdec]) (h : need s .iv = some e) :
    exec i s = .next (failed s e) := by
  have key := need_full hkey
  simp only [List.mem_cons, List.not_mem_nil, or_false] at hi
  rcases hi with rfl | rfl | rfl
  · simp only [exec, execCbcenc, cbcEncBody, hc, key, h, guarded_none, guarded_some, finish_error_eq_failed]
  · simp only [exec, execCbcenct, cbcEncTruncBody, hc, key, h, guarded_none, guarded_some, finish_error_eq_failed]
  · simp only [exec, execCbcdec, cbcDecBody, hc, key, h, guarded_none, guarded_some, finish_error_eq_failed]

theorem exec_ctrx_nonce_error (h : need s .nonce = some e) : exec .ctrx s = .next (failed s e) := by
  simp only [exec, execCtrx, ctrBody, hc, need_full hkey, h, guarded_none, guarded_some, finish_error_eq_failed]

theorem exec_ctrx_ctr0_error (hnonce : operandFull s .nonce) (h : need s .ctr0 = some e) :
    exec .ctrx s = .next (failed s e) := by
  simp only [exec, execCtrx, ctrBody, hc, need_full hkey, need_full hnonce, h, guarded_none, guarded_some,
    finish_error_eq_failed]

end

end Sys2Proof.Machine

namespace Sys2Proof.Proofs

open Sys2Proof.Machine Sys2Proof.Safety

/-! ### The obligations on acceptance, completion and errors -/

/-- Settles O7: `exec_cases`, read for STATUS, ERRCODE and the route's results. -/
theorem commandsCompleteOrWriteNothing : Obligations.CommandsCompleteOrWriteNothing := by
  unfold Obligations.CommandsCompleteOrWriteNothing
  refine ⟨fun s hd => complete_illegal fun ⟨i, hi⟩ => hd i hi, fun i s => ?_⟩
  obtain ⟨t, ht⟩ := exec_next i s
  obtain ⟨idle, done⟩ := exec_completes ht
  exact ⟨t, ht, idle, done, exec_results_or_error ht⟩

/-- Settles O8: a command leaves ERRCODE, which is 0, or ends in its row; a reserved opcode completes as illegal. -/
theorem errorsByCommand : Obligations.ErrorsByCommand := by
  unfold Obligations.ErrorsByCommand
  refine ⟨fun i s t h0 h => ?_, fun s t hc hd h => ?_⟩
  · rcases exec_errcode h with kept | row
    · rw [kept, h0]
      exact zero_mem_errorCodes i
    · exact row
  · have illegal : ¬ ∃ i, decode s.cmd = .ok i := fun ⟨i, hi⟩ => by simp [hd] at hi
    rw [step_complete hc, complete_illegal illegal] at h
    cases h
    rfl

/-- Settles O28: the first failing check is the operand's. -/
theorem operandChecks : Obligations.OperandChecks := by
  unfold Obligations.OperandChecks
  intro s
  refine ⟨fun i hi => ?key, fun i hi => ?state, fun hkey i hi => ?stateOfKey, fun hc i hi => ?modeKey,
    fun hc hkey i hi => ?iv, fun hc hkey => ?counter⟩
  case key => exact needMask_refusals fun e => exec_key_error hi
  case state => exact needMask_refusals fun e => exec_state_error hi
  case stateOfKey => exact needMask_refusals fun e => exec_state_error_of_key hkey hi
  all_goals obtain ⟨c, hc⟩ := Option.isSome_iff_exists.1 hc
  case modeKey => exact needMask_refusals fun e => exec_mode_key_error hc hi
  case iv => exact needMask_refusals fun e => exec_cbc_iv_error hc hkey hi
  case counter =>
    obtain ⟨absent, part⟩ := needMask_refusals fun e => exec_ctrx_nonce_error (e := e) hc hkey
    exact ⟨absent, part, fun hnonce => needMask_refusals fun e => exec_ctrx_ctr0_error hc hkey hnonce⟩

/-- Settles O5: a due command's step is `complete`, which runs the command that the word encodes. -/
theorem stepRunsDecodedCommand : Obligations.StepRunsDecodedCommand := by
  unfold Obligations.StepRunsDecodedCommand
  intro s i hc hd
  exact ⟨(decode_eq_ok_iff.1 hd).1, by rw [step_complete hc, complete, hd]⟩

/-- Settles O6: address 0 is CMD, which an idle block writes with all strobes only. -/
theorem cmdWriteAccepts : Obligations.CmdWriteAccepts := by
  unfold Obligations.CmdWriteAccepts
  have cmd (p : Params) : locOf p (0 : BitVec 16).toNat = .cmd := rfl
  refine ⟨fun s w rest hb hp => ?_, fun s w strb rest hb hstrb hp => ?_, fun s w strb rest n hb hn hp => ?_⟩
  · rw [step_idle_write hb hp rfl, cmd, writeLoc_cmd_full]
    rfl
  · rw [step_idle_write hb hp rfl, cmd, writeLoc_cmd_partial _ w hstrb]
  · have waiting : ¬ completes s := fun hc => by omega
    rw [step_write_busy waiting hb hp rfl, waited_succ hb hn]

end Sys2Proof.Proofs
end

section
/-! PROOF. Reset and hazards (70_reset_and_hazards.md): the reset values, writes while busy, and the bounded latency. -/

namespace Sys2Proof.Machine

open Sys2Proof.Safety

/-- With no command due, a step with a reset issued is that reset (70_reset_and_hazards.md R350). -/
theorem step_reset {s : State} {rest : List BusEvent} (h : ¬ completes s) (hp : s.pending = .reset :: rest) :
    step s = .next (resetState { waited s with pending := rest }) := by
  rw [step_bus h, busStep, waited_pending, hp]
  rfl

theorem readLoc_status_of_reset {s : State} (h : s.status = State.reset.status) : readLoc s .status = 0 := by
  rw [readLoc, h]
  decide

/-! ### A command in flight (70_reset_and_hazards.md R360, R364) -/

/-- `t` has the command in flight of `s`, its latched word and the steps left, and the events still issued. -/
structure SameFlight (s t : State) : Prop where
  busy : t.status.busy = true
  cmd : t.cmd = s.cmd
  wait : t.wait = s.wait
  pending : t.pending = s.pending

theorem hostRead_sameFlight {s : State} (hb : s.status.busy = true) (a : BitVec 16) : SameFlight s (hostRead s a) := by
  obtain ⟨r, n, hread⟩ := hostRead_frame s a
  rw [hread]
  exact ⟨hb, rfl, rfl, rfl⟩

theorem hostWrite_sameFlight {s : State} (hb : s.status.busy = true) (a : BitVec 16) (d : HWord) (strb : BitVec 4) :
    SameFlight s (hostWrite s a d strb) := by
  by_cases ha : a.toNat % 4 = 0
  · rw [hostWrite_busy d strb hb ha]
    exact ⟨hb, rfl, rfl, rfl⟩
  · rw [hostWrite_misaligned s d strb ha]
    exact ⟨hb, rfl, rfl, rfl⟩

/-- No transaction of the host touches a command in flight. -/
theorem busEvent_sameFlight {s : State} {e : BusEvent} (hb : s.status.busy = true) (he : e ≠ .reset) :
    SameFlight s (busEvent s e) := by
  cases e with
  | read a => exact hostRead_sameFlight hb a
  | write a d strb => exact hostWrite_sameFlight hb a d strb
  | reset => exact absurd rfl he

/-- A step of a command that waits takes the next event, which is no reset. -/
theorem step_waits {s : State} {n : Nat} (hb : s.status.busy = true) (hn : s.wait = n + 1)
    (hr : s.pending.head? ≠ some .reset) :
    ∃ t, step s = .next t ∧ SameFlight { s with wait := n, pending := s.pending.tail } t := by
  have waiting : ¬ completes s := fun hc => by omega
  rw [step_bus waiting, waited_succ hb hn, busStep]
  refine ⟨_, rfl, ?_⟩
  dsimp only
  cases hp : s.pending with
  | nil => exact ⟨hb, rfl, rfl, rfl⟩
  | cons e rest => exact busEvent_sameFlight hb fun he => hr (by rw [hp, he, List.head?_cons])

theorem run_succ {s t : State} (k : Nat) (h : step s = .next t) :
    Sys2Proof.core.run (k + 1) s = Sys2Proof.core.run k t := by
  have first : Sys2Proof.core.step s = .next t := h
  simp only [Host.Core.run, first]

/-- The steps left to wait, and one more, complete the command. -/
theorem run_completes (n : Nat) {s : State} (hb : s.status.busy = true) (hn : s.wait = n)
    (hr : BusEvent.reset ∉ s.pending.take n) :
    ∃ t : State, Sys2Proof.core.run (n + 1) s = .next t ∧
      t.status.busy = false ∧ t.status.done = true ∧ t.cmd = s.cmd := by
  induction n generalizing s with
  | zero =>
    obtain ⟨t, ht, completed⟩ := complete_next s
    exact ⟨t, run_succ 0 ((step_complete ⟨hb, hn⟩).trans ht), completed⟩
  | succ n ih =>
    have next : s.pending.head? ≠ some .reset ∧ BusEvent.reset ∉ s.pending.tail.take n := by
      cases hp : s.pending with
      | nil => simp
      | cons e rest => simpa [hp, eq_comm] using hr
    obtain ⟨u, hu, busy, cmd, wait, pending⟩ := step_waits hb hn next.1
    obtain ⟨t, ht, idle, done, kept⟩ := ih busy wait (pending ▸ next.2)
    exact ⟨t, (run_succ _ hu).trans ht, idle, done, kept.trans cmd⟩

end Sys2Proof.Machine

namespace Sys2Proof.Proofs

open Sys2Proof.Machine Sys2Proof.Safety

/-! ### The obligations on reset and hazards -/

/-- Settles O9, by induction on the steps left. -/
theorem acceptedCommandCompletes : Obligations.AcceptedCommandCompletes := by
  unfold Obligations.AcceptedCommandCompletes
  exact fun s hb hr => run_completes s.wait hb rfl hr

/-- Settles O11: the address's alignment decides, before BUSY does. -/
theorem busyWritesAreIgnored : Obligations.BusyWritesAreIgnored := by
  unfold Obligations.BusyWritesAreIgnored
  intro s a d strb rest hc hb hp
  split
  next ha => exact step_write_busy hc hb hp ha
  next ha => rw [step_write hc hp, hostWrite_misaligned _ d strb ha]

/-- Settles O22: `resetState` is the reset state in every location with a defined reset value. -/
theorem resetGivesDefinedValues : Obligations.ResetGivesDefinedValues := by
  unfold Obligations.ResetGivesDefinedValues
  intro s rest hc hp
  refine ⟨_, step_reset hc hp, rfl, rfl, readLoc_status_of_reset rfl, rfl, rfl, rfl, rfl,
    readLoc_valid0_of_masks_zero rfl rfl, readLoc_valid1_of_masks_zero rfl rfl rfl, rfl, ?_, fun _ => rfl,
    fun _ => rfl, rfl, waited_cfg s, rfl⟩
  exact congrArg paramBits (waited_cfg s)

end Sys2Proof.Proofs
end
